-- ==== Sys2Proof/Word.lean ====
section
/-! DEFINITION. The words of the Sperry Univac 6135: widths as `00_scope.md` rule R7 and `10_state.md` rules R30 to R34
give them. Card bit `n` is bit index `n - 1` (`00_scope.md` rule R9). -/

namespace Sys2Proof

/-- A 16-bit word of memory or of a register (`10_state.md` rules R30 to R32, `20_memory.md` rule R70). -/
abbrev Word := BitVec 16

/-- A 15-bit word address (`10_state.md` rule R34, `20_memory.md` rule R71). -/
abbrev Addr := BitVec 15

/-- A 32-bit double word, such as the pair AE (`10_state.md` rule R33). -/
abbrev DWord := BitVec 32

/-- One byte cell of the host's memory form; the machine itself has no bytes (`20_memory.md` rule R74). -/
abbrev Byte := BitVec 8

/-- The number of words a 15-bit address can name (`20_memory.md` rule R71). -/
abbrev addressSpace : Nat := 32768

end Sys2Proof
end

