-- ==== Sys2Proof/Config.lean ====
section
/-! DEFINITION. What an implementation fixes and the spec leaves open, and the free values: every constant below is
`opaque`, so nothing can be proved of the value it has, and a claim holds whatever it is. `draw` and `env` of
`00_scope.md` rule R14 are the ones applied to the step counter `State.draws` or to the I/O history. -/

namespace Sys2Proof

/-- The two protocols of XIO, `47_input_output.md` rule R277. -/
inductive IoMode where
  | compatible
  | direct
  deriving DecidableEq, Repr

/-- One external XIO as the I/O history records it, `47_input_output.md` rule R282. -/
structure IoEvent where
  /-- the external device's address, 1 to 63 -/
  ed : BitVec 6
  /-- the function X, 0 to 7 -/
  fn : BitVec 3
  mode : IoMode
  /-- the skip bit K -/
  k : Bool
  performed : Bool
  /-- the word put on the I/O lines, if any -/
  out : Option Word
  /-- the word taken from the I/O lines, if any -/
  inp : Option Word
  deriving DecidableEq, Repr

/-- The two classes of interrupt the card names, `60_exceptions.md` rule R322. -/
inductive InterruptClass where
  | scannedProgrammed
  | externalPriority
  deriving DecidableEq, Repr

/-- `SHORT_DISP_SIGN` (`30_encoding.md` rule R107): how short rows 1, 4, 5 and 6 use D. -/
inductive DispSign where
  | unsettled
  | asPrinted
  | allPlus
  deriving DecidableEq, Repr

/-- `INDIRECT_BIT16` (`30_encoding.md` rule R110): what bit 16 of an address word does. -/
inductive AddressBit16 where
  | refuse
  | ignored
  deriving DecidableEq, Repr

/-- `SKIP_MODE` (`43_jump_branch_skip.md` rule R210): how far a skip over a two-word instruction goes. -/
inductive SkipMode where
  | strict
  | oneWord
  | oneInstruction
  deriving DecidableEq, Repr

/-- `MOV_DEST_MAP`: the two readings of the MOV table's destination column (`48_miscellaneous.md` rule R302). -/
inductive MovDestMap where
  | shifted
  | asExtracted
  deriving DecidableEq, Repr

-- Which of the readings the spec names an implementation follows, where `exec` follows one of them.

/-- DESIGN CHOICE (log 7), safe. Whether short rows 1, 4, 5, 6 all add D, or all subtract it (`30_encoding.md` R107). -/
opaque Config.shortDispAllPlus : Bool

/-- DESIGN CHOICE (log 10), safe. Whether a skip over a two-word instruction passes both its words
(`43_jump_branch_skip.md` rule R210). -/
opaque Config.skipOneInstruction : Bool

-- Free values: a fresh one for each step number.

/-- OV where the spec draws it (`41_arithmetic.md` rule R187) and where the flags are "not known": AXDn (R185), JTB
(`43_jump_branch_skip.md` rule R222). -/
opaque Config.drawOv : Nat → Bool

/-- A where no rule states it: overflow divide (`41_arithmetic.md` rule R184), JTB (`43_jump_branch_skip.md` rule R222). -/
opaque Config.drawA : Nat → Word

/-- E where no rule states it: overflow divide (`41_arithmetic.md` rule R184), JTB (`43_jump_branch_skip.md` rule R222). -/
opaque Config.drawE : Nat → Word

/-- P after AXDn, whose next value "cannot be stated" (`41_arithmetic.md` rule R185). -/
opaque Config.drawP : Nat → Addr

/-- JTB's "k = shift count generated" (`43_jump_branch_skip.md` rule R222). -/
opaque Config.drawCount : Nat → Addr

-- The environment.

/-- Sense switches 1 to 4, switch `i` in bit index `i - 1`, read afresh at each Internal Test (`10_state.md` R42). -/
opaque Config.senseSwitches : Nat → BitVec 4

/-- The interrupt scanner, read afresh at each Internal Input (`10_state.md` rule R43). -/
opaque Config.scanner : Nat → BitVec 6

/-- Whether a device is ready, given the history of requests (`47_input_output.md` rule R282). -/
opaque Config.ioReady : List IoEvent → BitVec 6 → Bool

/-- The word a device supplies, given the history, its address, the mode and whether it is a Status Word input
(`47_input_output.md` rule R282). -/
opaque Config.ioInput : List IoEvent → BitVec 6 → IoMode → Bool → Word

/-- Whether an interrupt of a class is requested at an instruction boundary (`60_exceptions.md` rule R326). -/
opaque Config.interruptRequest : Nat → InterruptClass → Bool

end Sys2Proof
end

