-- ==== Sys2Proof/Syntax.lean ====
section
/-! DEFINITION. The instructions of `spec/opcode_table.json`: one constructor for each of its mnemonics, the short and
the long rows of one mnemonic being the two shapes of its operand `Form`. Fields are those of the formats of
`30_encoding.md` rules R101, R102 and R116 to R120; bits the card calls ignored or does not describe are kept, so that
an encoding is never lost. -/

namespace Sys2Proof

/-- The modifier X of a memory-reference instruction, `30_encoding.md` rules R106 and R108, in the order 0 to 7. -/
inductive Modifier where
  /-- 0: `P + D`, or `Y` -/
  | base
  /-- 1: X1 and the displacement -/
  | x1
  /-- 2: X2 and the displacement -/
  | x2
  /-- 3: X1, X2 and the displacement -/
  | x1x2
  /-- 4: indirect via mode 0's address -/
  | indirect
  /-- 5: indirect via mode 1's address -/
  | indirectX1
  /-- 6: X4 and the displacement -/
  | x4
  /-- 7: D itself, or the second word -/
  | literal
  deriving DecidableEq, Repr

/-- The operand of an instruction that exists in both formats (`30_encoding.md` rules R101 and R102): X and D, or X, the
designator G and the second word S ++ Y. -/
inductive Form where
  | short (x : Modifier) (d : BitVec 8)
  | long (x : Modifier) (g : BitVec 3) (w2 : Word)
  deriving DecidableEq, Repr

/-- Where an output-type XIO takes its word (functions 0, 1 and 3, `47_input_output.md` rule R276); the two-word
functions carry the word at P + 1. -/
inductive XioSource where
  | next (data : Word)
  | via (address : Word)
  | a
  deriving DecidableEq, Repr

/-- Where an input-type XIO puts its word (functions 4, 5 and 7, `47_input_output.md` rule R276); the two-word
functions carry the word at P + 1. -/
inductive XioDest where
  | next (old : Word)
  | via (address : Word)
  | a
  deriving DecidableEq, Repr

/-- The function X of an external XIO, `47_input_output.md` rule R276. -/
inductive XioFunction where
  /-- X = 0, 1, 3 -/
  | output (src : XioSource)
  /-- X = 2 -/
  | outputBit
  /-- X = 4, 5, 7 -/
  | input (dst : XioDest)
  /-- X = 6 -/
  | control
  deriving DecidableEq, Repr

/-- The instructions. A `Form` is the operand of an S/L instruction; `x` and `w2` are those of a long-only one; `alt` is
bit 4 of the first word where the card lists two operation codes (LDXn, STXn, STZ); `n` of a shift is its count and
`d8` its bit 8 where either value encodes the same shift. -/
inductive Instr where
  -- Load and store, `40_load_store.md`
  | lda (o : Form)
  | lde (o : Form)
  | ldx1 (alt : Bool) (x : Modifier) (w2 : Word)
  | ldx2 (alt : Bool) (x : Modifier) (w2 : Word)
  | ldx4 (alt : Bool) (x : Modifier) (w2 : Word)
  | dla (o : Form)
  | cls (x : Modifier) (w2 : Word)
  | cld (x : Modifier) (w2 : Word)
  | prs (x : Modifier) (w2 : Word)
  | prd (x : Modifier) (w2 : Word)
  | sta (o : Form)
  | ste (o : Form)
  | dst (o : Form)
  | stx1 (alt : Bool) (x : Modifier) (w2 : Word)
  | stx2 (alt : Bool) (x : Modifier) (w2 : Word)
  | stx4 (alt : Bool) (x : Modifier) (w2 : Word)
  | stz (alt : Bool) (x : Modifier) (w2 : Word)
  -- Arithmetic, `41_arithmetic.md`
  | add (o : Form)
  | sub (o : Form)
  | mpy (o : Form)
  | dad (o : Form)
  | dvd (o : Form)
  | axd1 (d : BitVec 8)
  | axd2 (d : BitVec 8)
  | axd4 (d : BitVec 8)
  -- Logical, `42_logical.md`
  | lor (o : Form)
  | and (o : Form)
  | xor (o : Form)
  -- Jump, branch and skip, `43_jump_branch_skip.md`
  | jmp (o : Form)
  | jci (o : Form)
  | jlz (o : Form)
  | jez (o : Form)
  | jgz (o : Form)
  | rtj (o : Form)
  | jtb (o : Form)
  | xec (o : Form)
  | kal (o : Form)
  | kaq (o : Form)
  | kah (o : Form)
  | imt (o : Form)
  | amt0 (x : Modifier) (w2 : Word)
  | amt2 (x : Modifier) (w2 : Word)
  | amt3 (x : Modifier) (w2 : Word)
  | amt4 (x : Modifier) (w2 : Word)
  | amt5 (x : Modifier) (w2 : Word)
  | amt6 (x : Modifier) (w2 : Word)
  | amt7 (x : Modifier) (w2 : Word)
  -- Monitor entry, `44_monitor_entry.md`
  | smm (w2 : Word)
  -- Shift, `45_shift.md`
  | rsa (d8 : Bool) (n : BitVec 7)
  | rsd (d8 : Bool) (n : BitVec 7)
  | lsa (n : BitVec 7)
  | lsd (n : BitVec 7)
  | rla (n : BitVec 7)
  | rld (d8 : Bool) (n : BitVec 7)
  | lla (n : BitVec 7)
  | lld (n : BitVec 7)
  | csa (n : BitVec 7)
  | csd (n : BitVec 7)
  | trn (n : BitVec 7)
  | nrm (n : BitVec 7)
  | tal (n : BitVec 7)
  /-- any op-34 word with count 0; X and D8 are free (`45_shift.md` rule R258) -/
  | nop (x : BitVec 3) (d8 : Bool)
  -- Status, `46_status.md`; `u` is bits 8-2, not described
  | sst (u : BitVec 7)
  | lst (u : BitVec 7)
  -- Input/output, `47_input_output.md`
  | xio (f : XioFunction) (c : Bool) (k : Bool) (ed : BitVec 6)
  | internalTest (src : XioSource)
  | internalSet (src : XioSource)
  | internalInput (dst : XioDest)
  -- Miscellaneous, `48_miscellaneous.md`
  | pin (x : Modifier) (n : BitVec 5) (w2 : Word)
  | mov (dest : BitVec 5) (source : BitVec 3)
  | cmp (dest : BitVec 5) (source : BitVec 3)
  | mao (dest : BitVec 5) (source : BitVec 3)
  | neg (dest : BitVec 5) (source : BitVec 3)
  deriving DecidableEq, Repr

/-- The modifier of a form. -/
def Form.modifier : Form → Modifier
  | .short x _ => x
  | .long x _ _ => x

/-- Words of a form's instruction, `30_encoding.md` rule R104. -/
def Form.length : Form → Nat
  | .short _ _ => 1
  | .long _ _ _ => 2

/-- Words of an XIO that outputs from this source, `30_encoding.md` rule R104. -/
def XioSource.length : XioSource → Nat
  | .next _ => 2
  | .via _ => 2
  | .a => 1

/-- Words of an XIO that inputs to this destination, `30_encoding.md` rule R104. -/
def XioDest.length : XioDest → Nat
  | .next _ => 2
  | .via _ => 2
  | .a => 1

/-- Words of an external XIO, `30_encoding.md` rule R104. -/
def XioFunction.length : XioFunction → Nat
  | .output src => src.length
  | .outputBit => 1
  | .input dst => dst.length
  | .control => 1

/-- The length L in words of an instruction, `30_encoding.md` rule R104. -/
def Instr.length : Instr → Nat
  | .lda o | .lde o | .dla o | .sta o | .ste o | .dst o | .add o | .sub o | .mpy o | .dad o | .dvd o | .lor o | .and o
  | .xor o | .jmp o | .jci o | .jlz o | .jez o | .jgz o | .rtj o | .jtb o | .xec o | .kal o | .kaq o | .kah o
  | .imt o => o.length
  | .ldx1 _ _ _ | .ldx2 _ _ _ | .ldx4 _ _ _ | .stx1 _ _ _ | .stx2 _ _ _ | .stx4 _ _ _ | .stz _ _ _ => 2
  | .cls _ _ | .cld _ _ | .prs _ _ | .prd _ _ | .amt0 _ _ | .amt2 _ _ | .amt3 _ _ | .amt4 _ _ | .amt5 _ _ | .amt6 _ _
  | .amt7 _ _ | .smm _ | .pin _ _ _ => 2
  | .axd1 _ | .axd2 _ | .axd4 _ | .sst _ | .lst _ => 1
  | .rsa _ _ | .rsd _ _ | .rld _ _ | .lsa _ | .lsd _ | .rla _ | .lla _ | .lld _ | .csa _ | .csd _ | .trn _ | .nrm _
  | .tal _ | .nop _ _ => 1
  | .mov _ _ | .cmp _ _ | .mao _ _ | .neg _ _ => 1
  | .xio f _ _ _ => f.length
  | .internalTest source | .internalSet source => source.length
  | .internalInput place => place.length

end Sys2Proof
end

