-- ==== Sys2Proof/WellFormed.lean ====
section
/-! DEFINITION. Which terms of `Instr` stand for an encoding the spec lists: the designators of `30_encoding.md` rule
R115, the X = 7 forms rule R111 admits, non-zero shift counts (a count of zero is NOP, `45_shift.md` rule R258) and
external device addresses that are not 0 (`47_input_output.md` rule R279). -/

namespace Sys2Proof

/-- Designators the card lists for LDA, STA and DST: "G = 4,6". -/
def designatorA (g : BitVec 3) : Bool := g == 4#3 || g == 6#3

/-- Designators the card lists for LDE and STE: "G = 5,7". -/
def designatorE (g : BitVec 3) : Bool := g == 5#3 || g == 7#3

/-- Designators of XEC: "G = 0, 2-7". -/
def designatorXec (g : BitVec 3) : Bool := g != 1#3

/-- Rule R113: the card prints no G, so any value selects the instruction; where `LONG_G_STRICT` is true only 0 does
(log 9). -/
def designatorAny (strict : Bool) (g : BitVec 3) : Bool := !strict || g == 0#3

/-- A form of class READ1: every X is admitted, `30_encoding.md` rule R111. -/
def Form.wfRead1 (g? : BitVec 3 → Bool) : Form → Bool
  | .short _ _ => true
  | .long _ g _ => g? g

/-- A form of class WRITE1 or RMW1: short X = 7 has no address, `30_encoding.md` rule R111. -/
def Form.wfLocation (g? : BitVec 3 → Bool) : Form → Bool
  | .short x _ => x != .literal
  | .long _ g _ => g? g

/-- A form of class READ2, WRITE2 or ADDR: X = 7 is not admitted, `30_encoding.md` rule R111. -/
def Form.wfAddress (g? : BitVec 3 → Bool) : Form → Bool
  | .short x _ => x != .literal
  | .long x g _ => x != .literal && g? g

/-- The check of an instruction, for a value of `LONG_G_STRICT`, by default that of `00_scope.md` rule R8. -/
def Instr.wellFormed (i : Instr) (strict : Bool := false) : Bool :=
  match i with
  | .lda o => o.wfRead1 designatorA
  | .lde o => o.wfRead1 designatorE
  | .add o | .sub o | .mpy o | .dvd o | .lor o | .and o | .xor o | .kal o | .kaq o | .kah o => o.wfRead1 (designatorAny strict)
  | .sta o => o.wfLocation designatorA
  | .ste o => o.wfLocation designatorE
  | .imt o => o.wfLocation (· == 1#3)
  | .dla o => o.wfAddress (· == 0#3)
  | .dst o => o.wfAddress designatorA
  | .xec o => o.wfAddress designatorXec
  | .dad o | .jmp o | .jci o | .jlz o | .jez o | .jgz o | .rtj o | .jtb o => o.wfAddress (designatorAny strict)
  | .ldx1 _ _ _ | .ldx2 _ _ _ | .ldx4 _ _ _ | .stx1 _ _ _ | .stx2 _ _ _ | .stx4 _ _ _ | .stz _ _ _ => true
  | .cls x _ | .cld x _ | .prs x _ | .prd x _ => x != .literal
  | .pin x _ _ => x != .literal
  | .amt0 _ _ | .amt2 _ _ | .amt3 _ _ | .amt4 _ _ | .amt5 _ _ | .amt6 _ _ | .amt7 _ _ | .smm _ => true
  | .axd1 _ | .axd2 _ | .axd4 _ | .sst _ | .lst _ | .nop _ _ => true
  | .rsa _ n | .rsd _ n | .rld _ n => n != 0#7
  | .lsa n | .lsd n | .rla n | .lla n | .lld n | .csa n | .csd n | .trn n | .nrm n | .tal n => n != 0#7
  | .mov _ _ | .cmp _ _ | .mao _ _ | .neg _ _ => true
  | .xio _ _ _ ed => ed != 0#6
  | .internalTest _ | .internalSet _ | .internalInput _ => true

end Sys2Proof
end

