-- ==== Sys2Proof/Decode.lean ====
section
/-! DEFINITION. The decoder, from the decode procedure of `30_encoding.md` rule R103 and the tables of rules R114 to R120
and `47_input_output.md` rule R289; after it the encoder, from the same tables. Operation codes are written in octal
as the card writes them. -/

namespace Sys2Proof

/-- Why the decoder refuses (`30_encoding.md` rules R121 and R122). Safe: the spec gives these no effect. -/
inductive DecodeError where
  /-- the bytes end before the instruction does -/
  | truncated
  /-- R121 (a): short operation code 32 -/
  | shortOperation32
  /-- R121 (b): operation code 33 with X = 0, 3, 4 or 5 -/
  | statusGroupModifier
  /-- R121 (c): operation code 35 with bit 6 = 1 -/
  | movBit6
  /-- R121 (d): long operation code 32 or 33 -/
  | longOperation
  /-- R121 (e) to (i): a designator G (for operation 03, with its X) the card does not list -/
  | designator
  /-- R121 (j): ED = 0 with an X, C, K that is none of the internal functions -/
  | internalXio
  /-- R111: X = 7 with an instruction whose operand class does not admit it -/
  | excludedLiteral
  deriving DecidableEq, Repr

-- Fields, by the zero-based shifts of rules R101, R102, R118 and R119.

/-- Bits 16-12. -/
def fieldOp (w : Word) : BitVec 5 := w.extractLsb' 11 5
/-- Bits 11-9. -/
def fieldX (w : Word) : BitVec 3 := w.extractLsb' 8 3
/-- Bits 8-1. -/
def fieldD (w : Word) : BitVec 8 := w.extractLsb' 0 8
/-- Bits 8-4. -/
def fieldLongOp (w : Word) : BitVec 5 := w.extractLsb' 3 5
/-- Bits 3-1. -/
def fieldG (w : Word) : BitVec 3 := w.extractLsb' 0 3
/-- Bit 8. -/
def fieldBit8 (w : Word) : Bool := w.getLsbD 7
/-- Bit 7. -/
def fieldBit7 (w : Word) : Bool := w.getLsbD 6
/-- Bits 7-1, the shift count. -/
def fieldCount (w : Word) : BitVec 7 := w.extractLsb' 0 7
/-- Bits 6-1, the ED address. -/
def fieldEd (w : Word) : BitVec 6 := w.extractLsb' 0 6
/-- Bits 11-7, DEST. -/
def fieldDest (w : Word) : BitVec 5 := w.extractLsb' 6 5
/-- Bit 6 of a MOV-family word. -/
def fieldBit6 (w : Word) : Bool := w.getLsbD 5
/-- Bits 5-4, OP of a MOV-family word. -/
def fieldMovOp (w : Word) : BitVec 2 := w.extractLsb' 3 2
/-- Bits 5-1, N of a PIn word. -/
def fieldN (w : Word) : BitVec 5 := w.extractLsb' 0 5
/-- Bits 8-2 of SST and LST. -/
def fieldUndescribed (w : Word) : BitVec 7 := w.extractLsb' 1 7
/-- Bit 1 of SST and LST. -/
def fieldBit1 (w : Word) : Bool := w.getLsbD 0

/-- The modifier an X field names, rules R106 and R108. -/
def Modifier.ofBits (x : BitVec 3) : Modifier :=
  match x.toNat with
  | 0 => .base
  | 1 => .x1
  | 2 => .x2
  | 3 => .x1x2
  | 4 => .indirect
  | 5 => .indirectX1
  | 6 => .x4
  | _ => .literal

/-- The X field of a modifier. -/
def Modifier.toBits : Modifier → BitVec 3
  | .base => 0#3
  | .x1 => 1#3
  | .x2 => 2#3
  | .x1x2 => 3#3
  | .indirect => 4#3
  | .indirectX1 => 5#3
  | .x4 => 6#3
  | .literal => 7#3

/-- Rule R104: a first word that has a second word after it. -/
def isTwoWord (w : Word) : Bool :=
  fieldOp w == 0o37#5 ||
    (fieldOp w == 0o36#5 &&
      (fieldX w == 0#3 || fieldX w == 1#3 || fieldX w == 4#3 || fieldX w == 5#3))

/-- Admits a form of an instruction of class READ1 (rule R111) with the designators `g?`. -/
def admitRead1 (g? : BitVec 3 → Bool) (mk : Form → Instr) (o : Form) : Except DecodeError Instr :=
  if o.wfRead1 g? then .ok (mk o) else .error .designator

/-- Admits a form of an instruction of class WRITE1 or RMW1 (rule R111) with the designators `g?`. -/
def admitLocation (g? : BitVec 3 → Bool) (mk : Form → Instr) (o : Form) : Except DecodeError Instr :=
  if o.wfLocation g? then .ok (mk o)
  else match o with
    | .short _ _ => .error .excludedLiteral
    | .long _ _ _ => .error .designator

/-- Admits a form of an instruction of class READ2, WRITE2 or ADDR (rule R111) with the designators `g?`. -/
def admitAddress (g? : BitVec 3 → Bool) (mk : Form → Instr) (o : Form) : Except DecodeError Instr :=
  if o.wfAddress g? then .ok (mk o)
  else match o with
    | .short _ _ => .error .excludedLiteral
    | .long _ g _ => if g? g then .error .excludedLiteral else .error .designator

/-- Admits a long-only instruction of class ADDR: X = 7 is excluded (rule R111). -/
def admitLong (i : Instr) : Except DecodeError Instr :=
  if i.wellFormed then .ok i else .error .excludedLiteral

/-- Operation code 33, rule R116. -/
def decodeStatusGroup (w : Word) : Except DecodeError Instr :=
  match (fieldX w).toNat with
  | 1 => .ok (.axd1 (fieldD w))
  | 2 => .ok (.axd2 (fieldD w))
  | 6 => .ok (.axd4 (fieldD w))
  | 7 => .ok (if fieldBit1 w then .lst (fieldUndescribed w) else .sst (fieldUndescribed w))
  | _ => .error .statusGroupModifier

/-- Operation code 34, rule R117; the NOP row is tested first (`45_shift.md` rule R258). -/
def decodeShift (w : Word) : Instr :=
  let n := fieldCount w
  let d8 := fieldBit8 w
  if n = 0#7 then .nop (fieldX w) d8
  else match (fieldX w).toNat with
    | 0 => .rsa d8 n
    | 1 => if d8 then .trn n else .rla n
    | 2 => .rsd d8 n
    | 3 => .rld d8 n
    | 4 => if d8 then .tal n else .lsa n
    | 5 => if d8 then .csa n else .lla n
    | 6 => if d8 then .nrm n else .lsd n
    | _ => if d8 then .csd n else .lld n

/-- Operation code 35, rule R118. -/
def decodeMov (w : Word) : Except DecodeError Instr :=
  if fieldBit6 w then .error .movBit6
  else match (fieldMovOp w).toNat with
    | 0 => .ok (.mov (fieldDest w) (fieldG w))
    | 1 => .ok (.cmp (fieldDest w) (fieldG w))
    | 2 => .ok (.mao (fieldDest w) (fieldG w))
    | _ => .ok (.neg (fieldDest w) (fieldG w))

/-- The function of an external XIO, `47_input_output.md` rule R276. -/
def xioFunctionOf (x : BitVec 3) (w2 : Word) : XioFunction :=
  match x.toNat with
  | 0 => .output (.next w2)
  | 1 => .output (.via w2)
  | 2 => .outputBit
  | 3 => .output .a
  | 4 => .input (.next w2)
  | 5 => .input (.via w2)
  | 6 => .control
  | _ => .input .a

/-- The internal functions, `47_input_output.md` rule R289. -/
def decodeInternalXio (x : BitVec 3) (c k : Bool) (w2 : Word) : Except DecodeError Instr :=
  match xioFunctionOf x w2 with
  | .output src => if !c then .error .internalXio else .ok (if k then .internalSet src else .internalTest src)
  | .input dst => if c && k then .ok (.internalInput dst) else .error .internalXio
  | .outputBit => .error .internalXio
  | .control => .error .internalXio

/-- Operation code 36, rule R119. -/
def decodeXio (w w2 : Word) : Except DecodeError Instr :=
  if fieldEd w = 0#6 then decodeInternalXio (fieldX w) (fieldBit8 w) (fieldBit7 w) w2
  else .ok (.xio (xioFunctionOf (fieldX w) w2) (fieldBit8 w) (fieldBit7 w) (fieldEd w))

/-- The long format, rules R113, R115 and R120. -/
def decodeLong (w w2 : Word) (strict : Bool) : Except DecodeError Instr :=
  let x := Modifier.ofBits (fieldX w)
  let g := fieldG w
  let o := Form.long x g w2
  let alt := (fieldLongOp w).getLsbD 0
  match (fieldLongOp w).toNat with
  | 0o00 => admitAddress (designatorAny strict) .jmp o
  | 0o01 => admitAddress (designatorAny strict) .jci o
  | 0o02 => admitAddress (designatorAny strict) .rtj o
  | 0o03 =>
    if g = 1#3 then (if x = .indirect then .ok (.smm w2) else .error .designator)
    else admitAddress designatorXec .xec o
  | 0o04 => admitAddress (designatorAny strict) .jtb o
  | 0o05 => admitAddress (designatorAny strict) .jgz o
  | 0o06 => admitAddress (designatorAny strict) .jez o
  | 0o07 => admitAddress (designatorAny strict) .jlz o
  | 0o10 =>
    match g.toNat with
    | 1 => .ok (.ldx1 alt x w2)
    | 2 => .ok (.ldx2 alt x w2)
    | 3 => .ok (.ldx4 alt x w2)
    | _ => admitRead1 designatorA .lda o
  | 0o11 =>
    match g.toNat with
    | 1 => .ok (.ldx1 alt x w2)
    | 2 => .ok (.ldx2 alt x w2)
    | 3 => .ok (.ldx4 alt x w2)
    | _ => admitRead1 designatorE .lde o
  | 0o12 => admitRead1 (designatorAny strict) .lor o
  | 0o13 => admitRead1 (designatorAny strict) .and o
  | 0o14 =>
    match g.toNat with
    | 0 => admitAddress (· == 0#3) .dla o
    | 4 => admitLong (.cls x w2)
    | 5 => admitLong (.prs x w2)
    | 6 => admitLong (.cld x w2)
    | 7 => admitLong (.prd x w2)
    | _ => .error .designator
  | 0o15 => admitRead1 (designatorAny strict) .add o
  | 0o16 => admitRead1 (designatorAny strict) .mpy o
  | 0o17 =>
    match g.toNat with
    | 0 => .ok (.amt0 x w2)
    | 1 => admitLocation (· == 1#3) .imt o
    | 2 => .ok (.amt2 x w2)
    | 3 => .ok (.amt3 x w2)
    | 4 => .ok (.amt4 x w2)
    | 5 => .ok (.amt5 x w2)
    | 6 => .ok (.amt6 x w2)
    | _ => .ok (.amt7 x w2)
  | 0o20 => admitAddress designatorA .dst o
  | 0o21 => admitAddress (designatorAny strict) .dad o
  | 0o22 =>
    match g.toNat with
    | 0 => .ok (.stz alt x w2)
    | 1 => .ok (.stx1 alt x w2)
    | 2 => .ok (.stx2 alt x w2)
    | 3 => .ok (.stx4 alt x w2)
    | _ => admitLocation designatorA .sta o
  | 0o23 =>
    match g.toNat with
    | 0 => .ok (.stz alt x w2)
    | 1 => .ok (.stx1 alt x w2)
    | 2 => .ok (.stx2 alt x w2)
    | 3 => .ok (.stx4 alt x w2)
    | _ => admitLocation designatorE .ste o
  | 0o24 => admitRead1 (designatorAny strict) .sub o
  | 0o25 => admitRead1 (designatorAny strict) .kal o
  | 0o26 => admitRead1 (designatorAny strict) .kaq o
  | 0o27 => admitRead1 (designatorAny strict) .kah o
  | 0o30 => admitRead1 (designatorAny strict) .dvd o
  | 0o31 => admitRead1 (designatorAny strict) .xor o
  | 0o32 => .error .longOperation
  | 0o33 => .error .longOperation
  | _ => admitLong (.pin x (fieldN w) w2)

/-- The instruction whose first word is `w` and whose second, if `w` has one, is `w2` (rules R103 and R114), for a value of
`LONG_G_STRICT` (rule R113), by default that of `00_scope.md` rule R8. -/
def decode (w w2 : Word) (strict : Bool := false) : Except DecodeError Instr :=
  let o := Form.short (Modifier.ofBits (fieldX w)) (fieldD w)
  match (fieldOp w).toNat with
  | 0o00 => admitAddress (designatorAny strict) .jmp o
  | 0o01 => admitAddress (designatorAny strict) .jci o
  | 0o02 => admitAddress (designatorAny strict) .rtj o
  | 0o03 => admitAddress (designatorAny strict) .xec o
  | 0o04 => admitAddress (designatorAny strict) .jtb o
  | 0o05 => admitAddress (designatorAny strict) .jgz o
  | 0o06 => admitAddress (designatorAny strict) .jez o
  | 0o07 => admitAddress (designatorAny strict) .jlz o
  | 0o10 => admitRead1 (designatorAny strict) .lda o
  | 0o11 => admitRead1 (designatorAny strict) .lde o
  | 0o12 => admitRead1 (designatorAny strict) .lor o
  | 0o13 => admitRead1 (designatorAny strict) .and o
  | 0o14 => admitAddress (designatorAny strict) .dla o
  | 0o15 => admitRead1 (designatorAny strict) .add o
  | 0o16 => admitRead1 (designatorAny strict) .mpy o
  | 0o17 => admitLocation (designatorAny strict) .imt o
  | 0o20 => admitAddress (designatorAny strict) .dst o
  | 0o21 => admitAddress (designatorAny strict) .dad o
  | 0o22 => admitLocation (designatorAny strict) .sta o
  | 0o23 => admitLocation (designatorAny strict) .ste o
  | 0o24 => admitRead1 (designatorAny strict) .sub o
  | 0o25 => admitRead1 (designatorAny strict) .kal o
  | 0o26 => admitRead1 (designatorAny strict) .kaq o
  | 0o27 => admitRead1 (designatorAny strict) .kah o
  | 0o30 => admitRead1 (designatorAny strict) .dvd o
  | 0o31 => admitRead1 (designatorAny strict) .xor o
  | 0o32 => .error .shortOperation32
  | 0o33 => decodeStatusGroup w
  | 0o34 => .ok (decodeShift w)
  | 0o35 => decodeMov w
  | 0o36 => decodeXio w w2
  | _ => decodeLong w w2 strict

/-- The first instruction of a list of words, and the words after it. -/
def decodeWords : List Word → Except DecodeError (Instr × List Word)
  | [] => .error .truncated
  | w :: rest =>
    if isTwoWord w then
      match rest with
      | [] => .error .truncated
      | w2 :: rest' => (decode w w2).map fun i => (i, rest')
    else (decode w 0#16).map fun i => (i, rest)

/-- Byte cells as words, the more significant byte in the lower cell (log 4); an odd last byte is dropped. -/
def wordsOfBytes : List Byte → List Word
  | hi :: lo :: rest => (hi ++ lo) :: wordsOfBytes rest
  | _ => []

/-- The byte cells of words, the more significant byte first (log 4). -/
def bytesOfWords : List Word → List Byte
  | [] => []
  | w :: rest => w.extractLsb' 8 8 :: w.extractLsb' 0 8 :: bytesOfWords rest

/-- The first instruction of a list of byte cells. -/
def decodeBytes (bytes : List Byte) : Except DecodeError Instr :=
  (decodeWords (wordsOfBytes bytes)).map Prod.fst

/-- The two words of an instruction whose table bits are the `nbits` low bits of `w`, bit 0 the least significant bit
of the first word; every bit above is 0. -/
def tableWords (nbits w : Nat) : List Word :=
  [BitVec.ofNat 16 (w % 2 ^ nbits), BitVec.ofNat 16 (w % 2 ^ nbits / 65536)]

/-- The instruction this decoder reads from an instruction given as `spec/opcode_table.json` numbers its bits. -/
def decodeTableWord (nbits w : Nat) : Option Instr :=
  match decodeBytes (bytesOfWords (tableWords nbits w)) with
  | .ok i => some i
  | .error _ => none

-- The encoder.

/-- A short-format word, rule R101. -/
def shortWord (op : BitVec 5) (x : BitVec 3) (d : BitVec 8) : Word := op ++ x ++ d

/-- The first word of the long format, rule R102. -/
def longWord (x : BitVec 3) (op : BitVec 5) (g : BitVec 3) : Word := 0o37#5 ++ x ++ op ++ g

/-- A shift word, rule R117. -/
def shiftWord (x : BitVec 3) (d8 : Bool) (n : BitVec 7) : Word := 0o34#5 ++ x ++ BitVec.ofBool d8 ++ n

/-- A MOV-family word, rule R118. -/
def movWord (dest : BitVec 5) (op : BitVec 2) (source : BitVec 3) : Word := 0o35#5 ++ dest ++ 0#1 ++ op ++ source

/-- An XIO word, rule R119. -/
def xioWord (x : BitVec 3) (c k : Bool) (ed : BitVec 6) : Word :=
  0o36#5 ++ x ++ BitVec.ofBool c ++ BitVec.ofBool k ++ ed

/-- A status word of operation code 33, rule R116. -/
def statusWord (u : BitVec 7) (d1 : Bool) : Word := 0o33#5 ++ 7#3 ++ u ++ BitVec.ofBool d1

/-- The first word of PIn, rule R120. -/
def pinWord (x : BitVec 3) (n : BitVec 5) : Word := 0o37#5 ++ x ++ 7#3 ++ n

/-- Both formats of an S/L instruction with operation code `op`. -/
def Form.encode (op : BitVec 5) : Form → List Word
  | .short x d => [shortWord op x.toBits d]
  | .long x g w2 => [longWord x.toBits op g, w2]

/-- The X field of an output-type XIO and the words after the first. -/
def XioSource.encode : XioSource → BitVec 3 × List Word
  | .next data => (0#3, [data])
  | .via address => (1#3, [address])
  | .a => (3#3, [])

/-- The X field of an input-type XIO and the words after the first. -/
def XioDest.encode : XioDest → BitVec 3 × List Word
  | .next old => (4#3, [old])
  | .via address => (5#3, [address])
  | .a => (7#3, [])

/-- The X field of an XIO function and the words after the first, `47_input_output.md` rule R276. -/
def XioFunction.encode : XioFunction → BitVec 3 × List Word
  | .output src => src.encode
  | .outputBit => (2#3, [])
  | .input dst => dst.encode
  | .control => (6#3, [])

/-- An XIO instruction from its function's encoding. -/
def xioWords (f : BitVec 3 × List Word) (c k : Bool) (ed : BitVec 6) : List Word :=
  xioWord f.1 c k ed :: f.2

/-- Operation code `0o10` or `0o11`: "10, 11 LDXn" (`40_load_store.md` rule R152). -/
def loadIndexOp (alt : Bool) : BitVec 5 := if alt then 0o11#5 else 0o10#5

/-- Operation code `0o22` or `0o23`: "22,23 STXn" (`40_load_store.md` rules R161 and R162). -/
def storeIndexOp (alt : Bool) : BitVec 5 := if alt then 0o23#5 else 0o22#5

/-- The words of an instruction, from the tables of rules R114 to R120. -/
def encode : Instr → List Word
  | .jmp o => o.encode 0o00#5
  | .jci o => o.encode 0o01#5
  | .rtj o => o.encode 0o02#5
  | .xec o => o.encode 0o03#5
  | .jtb o => o.encode 0o04#5
  | .jgz o => o.encode 0o05#5
  | .jez o => o.encode 0o06#5
  | .jlz o => o.encode 0o07#5
  | .lda o => o.encode 0o10#5
  | .lde o => o.encode 0o11#5
  | .lor o => o.encode 0o12#5
  | .and o => o.encode 0o13#5
  | .dla o => o.encode 0o14#5
  | .add o => o.encode 0o15#5
  | .mpy o => o.encode 0o16#5
  | .imt o => o.encode 0o17#5
  | .dst o => o.encode 0o20#5
  | .dad o => o.encode 0o21#5
  | .sta o => o.encode 0o22#5
  | .ste o => o.encode 0o23#5
  | .sub o => o.encode 0o24#5
  | .kal o => o.encode 0o25#5
  | .kaq o => o.encode 0o26#5
  | .kah o => o.encode 0o27#5
  | .dvd o => o.encode 0o30#5
  | .xor o => o.encode 0o31#5
  | .ldx1 alt x w2 => [longWord x.toBits (loadIndexOp alt) 1#3, w2]
  | .ldx2 alt x w2 => [longWord x.toBits (loadIndexOp alt) 2#3, w2]
  | .ldx4 alt x w2 => [longWord x.toBits (loadIndexOp alt) 3#3, w2]
  | .cls x w2 => [longWord x.toBits 0o14#5 4#3, w2]
  | .prs x w2 => [longWord x.toBits 0o14#5 5#3, w2]
  | .cld x w2 => [longWord x.toBits 0o14#5 6#3, w2]
  | .prd x w2 => [longWord x.toBits 0o14#5 7#3, w2]
  | .stz alt x w2 => [longWord x.toBits (storeIndexOp alt) 0#3, w2]
  | .stx1 alt x w2 => [longWord x.toBits (storeIndexOp alt) 1#3, w2]
  | .stx2 alt x w2 => [longWord x.toBits (storeIndexOp alt) 2#3, w2]
  | .stx4 alt x w2 => [longWord x.toBits (storeIndexOp alt) 3#3, w2]
  | .amt0 x w2 => [longWord x.toBits 0o17#5 0#3, w2]
  | .amt2 x w2 => [longWord x.toBits 0o17#5 2#3, w2]
  | .amt3 x w2 => [longWord x.toBits 0o17#5 3#3, w2]
  | .amt4 x w2 => [longWord x.toBits 0o17#5 4#3, w2]
  | .amt5 x w2 => [longWord x.toBits 0o17#5 5#3, w2]
  | .amt6 x w2 => [longWord x.toBits 0o17#5 6#3, w2]
  | .amt7 x w2 => [longWord x.toBits 0o17#5 7#3, w2]
  | .smm w2 => [longWord 4#3 0o03#5 1#3, w2]
  | .axd1 d => [shortWord 0o33#5 1#3 d]
  | .axd2 d => [shortWord 0o33#5 2#3 d]
  | .axd4 d => [shortWord 0o33#5 6#3 d]
  | .sst u => [statusWord u false]
  | .lst u => [statusWord u true]
  | .nop x d8 => [shiftWord x d8 0#7]
  | .rsa d8 n => [shiftWord 0#3 d8 n]
  | .rla n => [shiftWord 1#3 false n]
  | .trn n => [shiftWord 1#3 true n]
  | .rsd d8 n => [shiftWord 2#3 d8 n]
  | .rld d8 n => [shiftWord 3#3 d8 n]
  | .lsa n => [shiftWord 4#3 false n]
  | .tal n => [shiftWord 4#3 true n]
  | .lla n => [shiftWord 5#3 false n]
  | .csa n => [shiftWord 5#3 true n]
  | .lsd n => [shiftWord 6#3 false n]
  | .nrm n => [shiftWord 6#3 true n]
  | .lld n => [shiftWord 7#3 false n]
  | .csd n => [shiftWord 7#3 true n]
  | .mov dest source => [movWord dest 0#2 source]
  | .cmp dest source => [movWord dest 1#2 source]
  | .mao dest source => [movWord dest 2#2 source]
  | .neg dest source => [movWord dest 3#2 source]
  | .xio f c k ed => xioWords f.encode c k ed
  | .internalTest src => xioWords src.encode true false 0#6
  | .internalSet src => xioWords src.encode true true 0#6
  | .internalInput dst => xioWords dst.encode true true 0#6
  | .pin x n w2 => [pinWord x.toBits n, w2]

end Sys2Proof
end

