-- ==== Sys2Proof/Machine/State.lean ====
section
/-! DEFINITION. The state of the 6135 as plain data (`10_state.md`, `20_memory.md` rules R48 and R70 to R72), the reasons a
step can stop, and the state after reset. -/

namespace Sys2Proof.Machine

/-- Memory: (byte cell, byte) pairs. Word address `a` is cells `2 * a` (its more significant byte) and `2 * a + 1`
(DESIGN CHOICE, log 4, safe: the card has no bytes). A cell that is not listed reads as 0 (DESIGN CHOICE, log 3,
unsafe). -/
abbrev Memory := List Host.Cell

/-- Faults: the instruction uses an address that the spec says does not exist. All are safe: the spec refuses there. -/
inductive Fault where
  /-- Raised when an address sum has bit 16 set, or `m + 1` passes `0o77777`: the sum "lies outside the 15-bit address
  space" (`30_encoding.md` rule R109). Safe. -/
  | outsideSpace
  /-- Raised by an access to a word that is not installed (`20_memory.md` rule R72, `MEM_WORDS`). Safe. -/
  | absentMemory
  /-- Raised when the next instruction would lie past `0o77777` or past the installed memory (`10_state.md` R35). Safe. -/
  | pOutsideMemory
  deriving DecidableEq, Repr

/-- Refusals: the spec gives the situation no meaning. All are safe: nothing is claimed of what the hardware does. -/
inductive Refusal where
  /-- Raised by `exec` for an instruction that has no meaning yet. Safe. -/
  | notModelled (mnemonic : String)
  /-- Raised by the fetch of a word that encodes no listed instruction (`30_encoding.md` rules R121 and R122). Safe. -/
  | unlisted (why : DecodeError)
  /-- Raised by a meaning given an X = 7 form its operand class excludes (`30_encoding.md` R111); the decoder never
  produces one. Safe. -/
  | excludedLiteral
  /-- Raised by CLS: "meaning not in source" (`40_load_store.md` rule R154). Safe. -/
  | clearProtectSingleNotInSource
  /-- Raised by CLD: "meaning not in source" (`40_load_store.md` rule R155). Safe. -/
  | clearProtectDoubleNotInSource
  /-- Raised by PRS: "meaning not in source" (`40_load_store.md` rule R156). Safe. -/
  | protectSingleNotInSource
  /-- Raised by PRD: "meaning not in source" (`40_load_store.md` rule R157). Safe. -/
  | protectDoubleNotInSource
  /-- Raised by TRN: "operation not in source" (`45_shift.md` rule R257). Safe. -/
  | transposeNotInSource
  /-- Raised by NRM: "operation not in source" (`45_shift.md` rule R259). Safe. -/
  | normalizeNotInSource
  /-- Raised by TAL: "operation not in source" (`45_shift.md` rule R260). Safe. -/
  | tallyNotInSource
  /-- Raised by SST: "status format and destination not in source" (`46_status.md` rule R270). Safe. -/
  | storeStatusNotInSource
  /-- Raised by LST: "status format and source not in source" (`46_status.md` rule R271). Safe. -/
  | loadStatusNotInSource
  /-- Raised by PIn, with the PI address of its code: "action at the PI address not in source" (`48_miscellaneous.md`
  rule R300). Safe. -/
  | programmedInstructionNotInSource (address : Addr)
  /-- Raised by rows 1, 4, 5 and 6 of the short format with D other than 0 where `SHORT_DISP_SIGN` is `unsettled`
  (`30_encoding.md` rule R107); `exec`, which runs them, never answers it. Safe. -/
  | displacementSignUnsettled
  /-- Raised by an address word with bit 16 set where `INDIRECT_BIT16` is `refuse` (`30_encoding.md` rule R110); `exec`,
  which ignores the bit, never answers it. Safe. -/
  | addressWordBit16
  /-- Raised by a skip over a two-word instruction where `SKIP_MODE` is `strict`: "skip over a two-word instruction"
  (`43_jump_branch_skip.md` rule R210); `exec`, which runs it, never answers it. Safe. -/
  | skipOverTwoWordInstruction
  /-- Raised by LSA and LSD where a significant bit would be lost: "arithmetic left shift loses significance"
  (`45_shift.md` rule R249). Safe. -/
  | arithmeticLeftShiftLosesSignificance
  /-- Raised by XEC and SMM: "remote instruction outside the admitted set" (`43_jump_branch_skip.md` rule R216). Safe. -/
  | remoteOutsideAdmittedSet
  /-- Raised by SMM: "second word other than 00001" (`44_monitor_entry.md` rule R240). Safe. -/
  | smmSecondWord
  /-- Raised by AXDn under the spec's own configuration: the next value of P "cannot be stated" (`41_arithmetic.md` rule
  R185); `exec`, which runs them, never answers it. Safe. -/
  | augmentIndexTestNotInSource
  /-- Raised by JTB under the spec's own configuration: what is counted is not in the source (`43_jump_branch_skip.md` rule
  R222); `exec`, which runs it, never answers it. Safe. -/
  | tableCountNotInSource
  /-- Raised at an instruction boundary by a request for an interrupt whose class is allowed: "interrupt entry not in
  source" (`60_exceptions.md` rule R326). Safe. -/
  | interruptEntryNotInSource
  deriving DecidableEq, Repr

/-- The machine. -/
structure State where
  /-- A, `10_state.md` rule R30 -/
  a : Word
  /-- E, `10_state.md` rule R31 -/
  e : Word
  /-- X1, `10_state.md` rule R32 -/
  x1 : Word
  /-- X2, `10_state.md` rule R32 -/
  x2 : Word
  /-- X4, `10_state.md` rule R32 -/
  x4 : Word
  /-- P, the address of the instruction's first word while it executes, `10_state.md` rule R34 -/
  p : Addr
  /-- the overflow flip-flop OV, `10_state.md` rule R37 -/
  ov : Bool
  /-- the Scanned and Programmed I/O Interrupt Allow flip-flop, `10_state.md` rule R38 -/
  spio : Bool
  /-- the External Priority Interrupt Allow flip-flop, `10_state.md` rule R39 -/
  epi : Bool
  /-- Monitor Master, `10_state.md` rule R40 -/
  mm : Bool
  /-- what JCI clears, `10_state.md` rule R41 -/
  intr : Bool
  /-- main memory, `10_state.md` rule R48 -/
  mem : Memory
  /-- the installed words, MEM_WORDS, `20_memory.md` rule R72; no step changes it (log 5) -/
  memWords : Nat
  /-- the I/O history, oldest first, `47_input_output.md` rule R282 -/
  io : List IoEvent
  /-- the model's own step counter, which makes each free value a fresh one (log 34) -/
  draws : Nat
  deriving DecidableEq, Repr

/-- The machine after reset: one launch record (`70_reset_and_hazards.md` rule R351). The spec gives no reset value for
anything (`10_state.md` rule R50): every value here is a DESIGN CHOICE (log 1, 2, 3, 5, 34), unsafe. -/
def State.reset : State where
  a := 0#16
  e := 0#16
  x1 := 0#16
  x2 := 0#16
  x4 := 0#16
  p := 0o1000#15
  ov := false
  spio := false
  epi := false
  mm := false
  intr := false
  mem := []
  memWords := 32768
  io := []
  draws := 0

end Sys2Proof.Machine
end

