-- ==== Sys2Proof/Machine/Memory.lean ====
section
/-! DEFINITION. Reading and writing memory in its canonical form: cells strictly rising, none listed that reads as an
unlisted one does. -/

namespace Sys2Proof.Machine

/-- What a cell that is not listed reads as (DESIGN CHOICE, log 3, unsafe: `10_state.md` rule R50 gives no value). -/
def unlistedByte : Byte := 0#8

/-- The byte in a cell. -/
def Memory.byte : Memory → Nat → Byte
  | [], _ => unlistedByte
  | (k, v) :: rest, c => if k = c then v else Memory.byte rest c

/-- Memory with a byte written to a cell, canonical if it was. -/
def Memory.putByte : Memory → Nat → Byte → Memory
  | [], c, v => if v = unlistedByte then [] else [(c, v)]
  | (k, u) :: rest, c, v =>
    if c < k then (if v = unlistedByte then (k, u) :: rest else (c, v) :: (k, u) :: rest)
    else if c = k then (if v = unlistedByte then rest else (c, v) :: rest)
    else (k, u) :: Memory.putByte rest c v

/-- The cell of a word's more significant byte; the next cell holds the other (DESIGN CHOICE, log 4, safe). -/
def cellOf (a : Addr) : Nat := 2 * a.toNat

/-- The word at an address, `20_memory.md` rule R70. -/
def Memory.word (m : Memory) (a : Addr) : Word := m.byte (cellOf a) ++ m.byte (cellOf a + 1)

/-- Memory with a word written at an address. -/
def Memory.putWord (m : Memory) (a : Addr) (w : Word) : Memory :=
  (m.putByte (cellOf a) (w.extractLsb' 8 8)).putByte (cellOf a + 1) (w.extractLsb' 0 8)

/-- Canonical from cell `lo` up, every cell below `hi`. -/
def Memory.wfBetween (lo hi : Nat) : Memory → Bool
  | [] => true
  | (k, v) :: rest => decide (lo ≤ k) && decide (k < hi) && (v != unlistedByte) && Memory.wfBetween (k + 1) hi rest

/-- The canonical form of the whole address space: cells strictly rising and inside the space, none listed that reads as
an unlisted one does. -/
def Memory.wf (m : Memory) : Bool := m.wfBetween 0 (2 * addressSpace)

end Sys2Proof.Machine
end

