-- ==== Sys2Proof/Machine/Parameters.lean ====
section
/-! DEFINITION. The parameters of `00_scope.md` rule R8, each an argument of the model at its default there, and what the
running machine (`exec`, `step`) gives them. MEM_WORDS is the field `memWords` of the state; START_P, the launch registers
and the memory image are the state a run starts from. -/

namespace Sys2Proof.Machine

/-- What a meaning answers. -/
abbrev Answer := Host.Outcome State Fault Refusal

/-- Where an instruction stands, as the instruction sees it. -/
structure Site where
  /-- the P that relative operands and "P + 1" use, `10_state.md` rule R34 -/
  here : Addr
  /-- `next` of `00_scope.md` rule R14, before the check of `10_state.md` rule R35 -/
  next : Nat
  deriving DecidableEq, Repr

/-- Whether an exact result fits a 16-bit two's-complement word. -/
def fits16 (t : Int) : Bool := decide (-32768 ≤ t) && decide (t ≤ 32767)

/-- Whether an exact result fits a 32-bit two's-complement double word. -/
def fits32 (t : Int) : Bool := decide (-2147483648 ≤ t) && decide (t ≤ 2147483647)

/-- The argument of OV_RULE, the instruction and its operands (`00_scope.md` rule R8): a row of the table of
`41_arithmetic.md` rule R187 with its operand values, or any other instruction with the state that holds its operands. -/
inductive OvCase where
  /-- ADD of the operand to A -/
  | add (a v : Word)
  /-- SUB of the operand from A -/
  | sub (a v : Word)
  /-- MPY of A and the operand -/
  | mpy (a v : Word)
  /-- DAD of the double operand to AE -/
  | dad (ae v : DWord)
  /-- DVD of AE by the operand, and whether DVD_FN answers an overflow divide -/
  | dvd (ae : DWord) (v : Word) (overflow : Bool)
  /-- MAO of the source -/
  | mao (source : Word)
  /-- NEG of the source -/
  | neg (source : Word)
  /-- IMT and AMTn: the addend and the old word -/
  | addToMemory (k : BitVec 3) (old : Word)
  /-- LSA of A by a count -/
  | lsa (a : Word) (n : BitVec 7)
  /-- LSD of AE by a count -/
  | lsd (ae : DWord) (n : BitVec 7)
  /-- "every other instruction", in the state it is performed in -/
  | other (i : Instr) (s : State)
  deriving DecidableEq, Repr

/-- What OV_RULE answers, `00_scope.md` rule R8. -/
inductive OvEffect where
  | unchanged
  | set
  | draw
  deriving DecidableEq, Repr

/-- `OV_RULE` at its default, the table of `41_arithmetic.md` rule R187 (log 15). -/
def defaultOvRule : OvCase → OvEffect
  | .add a v => if fits16 (a.toInt + v.toInt) then .unchanged else .set
  | .sub a v => if fits16 (a.toInt - v.toInt) then .unchanged else .set
  | .dad ae v => if fits32 (ae.toInt + v.toInt) then .unchanged else .set
  | .mpy _ _ => .unchanged
  | .dvd _ _ overflow => if overflow then .draw else .unchanged
  | .mao source => if source = 0x7FFF#16 then .draw else .unchanged
  | .neg source => if source = 0x8000#16 then .draw else .unchanged
  | .addToMemory k old => if fits16 (old.toInt + k.toNat) then .unchanged else .draw
  | .lsa _ _ => .unchanged
  | .lsd _ _ => .unchanged
  | .other _ _ => .unchanged

/-- `MPY_FN` at its default, `41_arithmetic.md` rule R188: the signed 16 by 16 bit product in 32 bits (DESIGN CHOICE,
log 17, unsafe). -/
def defaultMpyFn (a v : Word) : DWord := BitVec.ofInt 32 (a.toInt * v.toInt)

/-- `DVD_FN` at its default, `41_arithmetic.md` rule R189: quotient truncated toward zero and its remainder, or none for an
overflow divide (DESIGN CHOICE, log 18, unsafe). -/
def defaultDvdFn (ae : DWord) (v : Word) : Option (Word × Word) :=
  let n := ae.toInt
  let d := v.toInt
  let q := n.tdiv d
  if d = 0 then none
  else if fits16 q then some (BitVec.ofInt 16 q, BitVec.ofInt 16 (n - q * d))
  else none

/-- What becomes of AXDn and JTB without a supplied meaning (D26): the card prints what they do but for a value or a
place. -/
inductive WhereOpen where
  /-- it is refused, as the spec has it -/
  | refuse
  /-- it runs, and what is open is a free value -/
  | run
  deriving DecidableEq, Repr

/-- The parameters of `00_scope.md` rule R8 with their defaults there, and one of the model's own: `whereOpen`, whose
default is the spec's refusal too. -/
structure Parameters where
  /-- `SHORT_DISP_SIGN`, `30_encoding.md` rule R107 -/
  shortDispSign : DispSign := .unsettled
  /-- `INDIRECT_BIT16`, `30_encoding.md` rule R110 -/
  indirectBit16 : AddressBit16 := .refuse
  /-- `LONG_G_STRICT`, `30_encoding.md` rule R113 -/
  longGStrict : Bool := false
  /-- `SKIP_MODE`, `43_jump_branch_skip.md` rule R210 -/
  skipMode : SkipMode := .strict
  /-- `OV_RULE`, `41_arithmetic.md` rule R187 -/
  ovRule : OvCase → OvEffect := defaultOvRule
  /-- `MPY_FN`, `41_arithmetic.md` rule R188: A and the operand -/
  mpyFn : Word → Word → DWord := defaultMpyFn
  /-- `DVD_FN`, `41_arithmetic.md` rule R189: AE and the operand; quotient and remainder, or none for an overflow divide -/
  dvdFn : DWord → Word → Option (Word × Word) := defaultDvdFn
  /-- `MOV_DEST_MAP`, `48_miscellaneous.md` rule R302 -/
  movDestMap : MovDestMap := .shifted
  /-- `NAMED_ONLY`: the meaning supplied for an instruction the card only names (`92_eei_decisions.md` D26) -/
  namedOnly : Instr → Option (Site → State → Answer) := fun _ => none
  /-- `IO`: whether a device is ready, `47_input_output.md` rule R282 -/
  ioReady : List IoEvent → BitVec 6 → Bool := Config.ioReady
  /-- `IO`: the word a device supplies, `47_input_output.md` rule R282 -/
  ioInput : List IoEvent → BitVec 6 → IoMode → Bool → Word := Config.ioInput
  /-- `SENSE`: the four switches at a step, `10_state.md` rule R42 -/
  sense : Nat → BitVec 4 := Config.senseSwitches
  /-- `SCANNER`: the interrupt scanner at a step, `10_state.md` rule R43 -/
  scanner : Nat → BitVec 6 := Config.scanner
  /-- whether AXDn and JTB run where `namedOnly` supplies no meaning -/
  whereOpen : WhereOpen := .refuse

/-- The spec's own configuration: every parameter at its default. -/
def specParameters : Parameters := {}

/-- What `exec` and `step` run with. Where a parameter's default only refuses, it has the one other value that the spec
lists (DESIGN CHOICE, log 8, unsafe), or one of the two, unknown which (DESIGN CHOICE, log 7 and 10); AXDn and JTB run with
free values (DESIGN CHOICE, log 19 and 20). -/
def parameters : Parameters where
  shortDispSign := if Config.shortDispAllPlus then .allPlus else .asPrinted
  indirectBit16 := .ignored
  skipMode := if Config.skipOneInstruction then .oneInstruction else .oneWord
  whereOpen := .run

end Sys2Proof.Machine
end

