-- ==== Sys2Proof/Machine/Ops.lean ====
section
/-! DEFINITION. The shared operations: checked accesses to memory, the registers by code, and where an instruction
continues (advance, skip, jump). The card documents no exception (`60_exceptions.md` rule R320), so there is no
exception entry here; its nearest things, monitor entry and the clearing of the interrupt, are `setMonitorMaster` and
`clearInterrupt`. -/

namespace Sys2Proof.Machine

/-- Why a part of a meaning stops. -/
inductive Stop where
  | fault (f : Fault)
  | refusal (r : Refusal)
  deriving DecidableEq, Repr

/-- A stop as the answer of the step. -/
def Stop.answer : Stop → Answer
  | .fault f => .fault f
  | .refusal r => .refused r

/-- Goes on with a value, or stops. -/
def withValue {α : Type} (r : Except Stop α) (k : α → Answer) : Answer :=
  match r with
  | .ok v => k v
  | .error e => e.answer

-- Memory.

/-- Whether a word is installed: all 32768 are, or the address is below `MEM_WORDS` (`20_memory.md` rule R72). -/
def State.implemented (s : State) (a : Addr) : Bool :=
  decide (addressSpace ≤ s.memWords) || decide (a.toNat < s.memWords)

/-- `M[a]` without the check, for statements and for words already checked. -/
def State.word (s : State) (a : Addr) : Word := s.mem.word a

/-- The byte in a cell. -/
def State.byte (s : State) (c : Nat) : Byte := s.mem.byte c

/-- `MemRead(a, 1)`, `20_memory.md` rules R70 and R72. -/
def State.readWord (s : State) (a : Addr) : Except Stop Word :=
  if s.implemented a then .ok (s.word a) else .error (.fault .absentMemory)

/-- The state with `w` at `a`, without the check. -/
def State.putWord (s : State) (a : Addr) (w : Word) : State := { s with mem := s.mem.putWord a w }

/-- `MemWrite(a, 1, w)`, `20_memory.md` rules R70 and R72. -/
def State.writeWord (s : State) (a : Addr) (w : Word) : Except Stop State :=
  if s.implemented a then .ok (s.putWord a w) else .error (.fault .absentMemory)

/-- `m + 1`, formed by `30_encoding.md` rule R109: it must stay in the address space. -/
def nextAddress (m : Addr) : Except Stop Addr :=
  if m = 0x7FFF#15 then .error (.fault .outsideSpace) else .ok (m + 1#15)

/-- `MemRead(m, 2)`: the word at `m` is the more significant half (`20_memory.md` rules R73 and R75). -/
def State.readDouble (s : State) (m : Addr) : Except Stop DWord :=
  (s.readWord m).bind fun hi => (nextAddress m).bind fun m1 => (s.readWord m1).map fun lo => hi ++ lo

/-- `MemWrite(m, 2, hi ++ lo)`: `m`, then `m + 1` (`20_memory.md` rules R73 and R82). -/
def State.writeDouble (s : State) (m : Addr) (hi lo : Word) : Except Stop State :=
  (s.writeWord m hi).bind fun s1 => (nextAddress m).bind fun m1 => s1.writeWord m1 lo

-- Registers.

/-- `A <- w`. -/
def State.setA (s : State) (w : Word) : State := { s with a := w }
/-- `E <- w`. -/
def State.setE (s : State) (w : Word) : State := { s with e := w }
/-- `X1 <- w`. -/
def State.setX1 (s : State) (w : Word) : State := { s with x1 := w }
/-- `X2 <- w`. -/
def State.setX2 (s : State) (w : Word) : State := { s with x2 := w }
/-- `X4 <- w`. -/
def State.setX4 (s : State) (w : Word) : State := { s with x4 := w }
/-- `P <- m`. -/
def State.setP (s : State) (m : Addr) : State := { s with p := m }
/-- `SPIO <- b`. -/
def State.setSpio (s : State) (b : Bool) : State := { s with spio := b }
/-- `EPI <- b`. -/
def State.setEpi (s : State) (b : Bool) : State := { s with epi := b }
/-- Adds an event at the end of the I/O history, `47_input_output.md` rule R282. -/
def State.record (s : State) (ev : IoEvent) : State := { s with io := s.io ++ [ev] }
/-- Moves to the next step number, so that the next free values are fresh ones (log 34). -/
def State.tick (s : State) : State := { s with draws := s.draws + 1 }

/-- AE, `10_state.md` rule R33: A is the more significant half. -/
def State.ae (s : State) : DWord := s.a ++ s.e

/-- `AE <- v`, `00_scope.md` rule R13. -/
def State.setAE (s : State) (v : DWord) : State := { s with a := v.extractLsb' 16 16, e := v.extractLsb' 0 16 }

/-- `R[c]`, `10_state.md` rule R36: code 0 is zeros, 3 is X4, 4 and 6 are A, 5 and 7 are E. -/
def State.reg (s : State) (c : BitVec 3) : Word :=
  match c.toNat with
  | 0 => 0#16
  | 1 => s.x1
  | 2 => s.x2
  | 3 => s.x4
  | 4 => s.a
  | 5 => s.e
  | 6 => s.a
  | _ => s.e

-- Monitor entry and the clearing of the interrupt.

/-- `MM <- 1`, `44_monitor_entry.md` rule R240. -/
def State.setMonitorMaster (s : State) : State := { s with mm := true }

/-- `INTR <- 0`, `43_jump_branch_skip.md` rule R212; nothing else is restored (`60_exceptions.md` rule R328). -/
def State.clearInterrupt (s : State) : State := { s with intr := false }

-- Where an instruction stands and where it continues.

/-- The site of an instruction of `len` words fetched at P. -/
def Site.own (len : Nat) (s : State) : Site := ⟨s.p, s.p.toNat + len⟩

/-- An address for P to advance to, refused past the address space or past installed memory (`10_state.md` R35). -/
def State.placeFor (s : State) (t : Nat) : Except Stop Addr :=
  if decide (t < addressSpace) && s.implemented (BitVec.ofNat 15 t) then .ok (BitVec.ofNat 15 t)
  else .error (.fault .pOutsideMemory)

/-- `P <- t` for a `t` that must lie in installed memory. -/
def continueAt (t : Nat) (s : State) : Answer := withValue (s.placeFor t) fun m => .next (s.setP m)

/-- "advance": `P <- next`, `10_state.md` rule R35. -/
def advance (at_ : Site) (s : State) : Answer := continueAt at_.next s

/-- `P <- m`: a jump's target is checked only at the next fetch (`43_jump_branch_skip.md` rule R211). -/
def jumpTo (m : Addr) (s : State) : Answer := .next (s.setP m)

/-- How far past `next` a skip over the word `w` goes, `43_jump_branch_skip.md` rule R210: one word; over a two-word
instruction as `SKIP_MODE` has it, where `strict` refuses the skip (`skip`; DESIGN CHOICE, log 10, safe). -/
def skipLength (w : Word) (c : Parameters := parameters) : Nat :=
  if isTwoWord w then
    match c.skipMode with
    | .strict => 1
    | .oneWord => 1
    | .oneInstruction => 2
  else 1

/-- Whether a skip over the word `w` is refused: `SKIP_MODE` is `strict` and the word begins a two-word instruction
(`43_jump_branch_skip.md` rule R210). -/
def skipRefused (w : Word) (c : Parameters := parameters) : Bool := isTwoWord w && c.skipMode == .strict

/-- "skip", `43_jump_branch_skip.md` rule R210. -/
def skip (at_ : Site) (s : State) (c : Parameters := parameters) : Answer :=
  withValue (s.placeFor at_.next) fun n =>
    if skipRefused (s.word n) c then .refused .skipOverTwoWordInstruction
    else continueAt (at_.next + skipLength (s.word n) c) s

/-- Skips if the condition holds, advances if not. -/
def skipIf (cond : Bool) (at_ : Site) (s : State) (c : Parameters := parameters) : Answer :=
  if cond then skip at_ s c else advance at_ s

-- Instructions the card names without a usable definition.

/-- The meaning that `NAMED_ONLY` supplies for an instruction (`00_scope.md` rule R8, `92_eei_decisions.md` D26; log 35), or
what the model answers where it supplies none. -/
def namedOnlyMeaning (i : Instr) (at_ : Site) (unsupplied : Answer) (s : State)
    (c : Parameters := parameters) : Answer :=
  match c.namedOnly i with
  | some meaning => meaning at_ s
  | none => unsupplied

/-- AXDn or JTB without a supplied meaning: refused, as the spec has it, or run with free values. -/
def ifRun (c : Parameters) (refusal : Refusal) (run : Answer) : Answer :=
  match c.whereOpen with
  | .refuse => .refused refusal
  | .run => run

end Sys2Proof.Machine
end

