-- ==== Sys2Proof/Machine/Flags.lean ====
section
/-! DEFINITION. The overflow flip-flop, the card's only condition code (`10_state.md` rule R37): what OV_RULE of
`41_arithmetic.md` rule R187 does to it, and where it is open or cleared. -/

namespace Sys2Proof.Machine

/-- The new OV by an effect that OV_RULE answers, `00_scope.md` rule R8. -/
def OvEffect.newOv (effect : OvEffect) (s : State) : Bool :=
  match effect with
  | .unchanged => s.ov
  | .set => true
  | .draw => Config.drawOv s.draws

/-- OV after one of the instructions OV_RULE names (`41_arithmetic.md` rule R187). -/
def State.ovAfter (s : State) (case : OvCase) (c : Parameters := parameters) : State :=
  { s with ov := (c.ovRule case).newOv s }

/-- The instructions with a row of their own in OV_RULE, whose meaning applies it where the result is (`ovAfter`). -/
def hasOvRow : Instr → Bool
  | .add _ | .sub _ | .mpy _ | .dad _ | .dvd _ | .mao _ _ | .neg _ _ | .imt _ | .lsa _ | .lsd _ => true
  | .amt0 _ _ | .amt2 _ _ | .amt3 _ _ | .amt4 _ _ | .amt5 _ _ | .amt6 _ _ | .amt7 _ _ => true
  | _ => false

/-- What OV_RULE does to the answer `r` of "every other instruction", performed in `s` (`41_arithmetic.md` rule R187):
nothing at its default. -/
def withOtherOv (i : Instr) (s : State) (r : Answer) (c : Parameters := parameters) : Answer :=
  match r with
  | .next t => .next (if hasOvRow i then t else t.ovAfter (.other i s) c)
  | .fault f => .fault f
  | .refused x => .refused x

/-- OV is set or kept, unknown which: the flags are "not known", and only Internal Test clears it (`10_state.md` rule
R37; DESIGN CHOICE, log 19, 20). -/
def State.maySetOv (s : State) : State := { s with ov := s.ov || Config.drawOv s.draws }

/-- `OV <- 0`: "cleared when tested" (`47_input_output.md` rule R286). -/
def State.clearOvIf (s : State) (tested : Bool) : State := { s with ov := if tested then false else s.ov }

end Sys2Proof.Machine
end

