-- ==== Sys2Proof/Machine/Operands.lean ====
section
/-! DEFINITION. Address modification and operands: `30_encoding.md` rules R105 to R111, `47_input_output.md` rule R280 and
the destinations of `48_miscellaneous.md` rule R302. -/

namespace Sys2Proof.Machine

/-- `sext8(D)` as a 16-bit term, rules R105 and R109. -/
def displacement (d : BitVec 8) : Word := d.signExtend 16

/-- `zext(D)`, the short literal, rule R105. -/
def shortLiteral (d : BitVec 8) : Word := d.setWidth 16

/-- An address as a 16-bit term, rule R109. -/
def addressTerm (a : Addr) : Word := a.setWidth 16

/-- Y, the low 15 bits of a second word, as a 16-bit term; S is ignored (rules R102, R108 and R109). -/
def baseTerm (w2 : Word) : Word := addressTerm (w2.setWidth 15)

/-- Rule R109: a 16-bit sum is an address if its bit 16 is 0; else it lies outside the address space. -/
def formAddress (v : Word) : Except Stop Addr :=
  if v.msb then .error (.fault .outsideSpace) else .ok (v.setWidth 15)

/-- The displaced term of short rows 1, 4, 5 and 6: D = 0 makes no difference; otherwise as `SHORT_DISP_SIGN` has it
(rules R106 and R107; DESIGN CHOICE, log 7, safe). -/
def signedRow (base : Word) (d : BitVec 8) (c : Parameters := parameters) : Except Stop Word :=
  if d = 0#8 then .ok base
  else match c.shortDispSign with
    | .unsettled => .error (.refusal .displacementSignUnsettled)
    | .asPrinted => .ok (base - displacement d)
    | .allPlus => .ok (base + displacement d)

/-- Whether an address word is refused: its bit 16 is set and `INDIRECT_BIT16` is `refuse` (rule R110). -/
def addressRefused (iw : Word) (c : Parameters := parameters) : Bool := iw.msb && c.indirectBit16 == .refuse

/-- The address of an indirect address word, or of XIO's or SMM's, or its refusal (rule R110, `47_input_output.md` rule
R280, `44_monitor_entry.md` rule R240): bits 15-1; bit 16 as `INDIRECT_BIT16` has it (DESIGN CHOICE, log 8, unsafe). -/
def addressIn (iw : Word) (c : Parameters := parameters) : Except Stop Addr :=
  if addressRefused iw c then .error (.refusal .addressWordBit16) else .ok (iw.setWidth 15)

/-- `ind(v)`, rule R110: form the address, read the address word, take its address. One level only. -/
def State.indirectVia (s : State) (v : Word) (c : Parameters := parameters) : Except Stop Addr :=
  (formAddress v).bind fun a => (s.readWord a).bind fun iw => addressIn iw c

/-- `P + sext8(D)`, short row 0 of rule R106; with D = 0 it is P itself. -/
def relativeAddress (here : Addr) (d : BitVec 8) : Except Stop Addr :=
  if d = 0#8 then .ok here else formAddress (addressTerm here + displacement d)

/-- The short-format modifier table, rule R106, for an instruction that sees P as `here`. -/
def State.shortAddress (s : State) (here : Addr) (x : Modifier) (d : BitVec 8)
    (c : Parameters := parameters) : Except Stop Addr :=
  match x with
  | .base => relativeAddress here d
  | .x1 => (signedRow s.x1 d c).bind formAddress
  | .x2 => formAddress (s.x2 + displacement d)
  | .x1x2 => formAddress (s.x1 + s.x2 + displacement d)
  | .indirect => (signedRow (addressTerm here) d c).bind fun v => s.indirectVia v c
  | .indirectX1 => (signedRow s.x1 d c).bind fun v => s.indirectVia v c
  | .x4 => (signedRow s.x4 d c).bind formAddress
  | .literal => .error (.refusal .excludedLiteral)

/-- The long-format modifier table, rule R108, but for X = 7. -/
def State.longAddress (s : State) (x : Modifier) (w2 : Word) (c : Parameters := parameters) : Except Stop Addr :=
  match x with
  | .base => formAddress (baseTerm w2)
  | .x1 => formAddress (s.x1 + baseTerm w2)
  | .x2 => formAddress (s.x2 + baseTerm w2)
  | .x1x2 => formAddress (s.x1 + s.x2 + baseTerm w2)
  | .indirect => s.indirectVia (baseTerm w2) c
  | .indirectX1 => s.indirectVia (s.x1 + baseTerm w2) c
  | .x4 => formAddress (s.x4 + baseTerm w2)
  | .literal => .error (.refusal .excludedLiteral)

/-- `m` for classes READ2, WRITE2 and ADDR, which X = 7 does not admit (rule R111). -/
def State.effectiveAddress (s : State) (at_ : Site) (o : Form) (c : Parameters := parameters) : Except Stop Addr :=
  match o with
  | .short x d => s.shortAddress at_.here x d c
  | .long x _ w2 => s.longAddress x w2 c

/-- The location of classes WRITE1 and RMW1: as `effectiveAddress`, and P + 1 for long X = 7 (rule R111). -/
def State.locationOf (s : State) (at_ : Site) (o : Form) (c : Parameters := parameters) : Except Stop Addr :=
  match o with
  | .short x d => s.shortAddress at_.here x d c
  | .long .literal _ _ => nextAddress at_.here
  | .long x _ w2 => s.longAddress x w2 c

/-- The operand of class READ1, rule R111: `M[m]`; `zext(D)` for short X = 7; the second word for long X = 7. -/
def State.operandOf (s : State) (at_ : Site) (o : Form) (c : Parameters := parameters) : Except Stop Word :=
  match o with
  | .short .literal d => .ok (shortLiteral d)
  | .short x d => (s.shortAddress at_.here x d c).bind s.readWord
  | .long .literal _ w2 => .ok w2
  | .long x _ w2 => (s.longAddress x w2 c).bind s.readWord

/-- The double operand of class READ2, rules R111 and `20_memory.md` R73. -/
def State.doubleOperandOf (s : State) (at_ : Site) (o : Form) (c : Parameters := parameters) : Except Stop DWord :=
  (s.effectiveAddress at_ o c).bind s.readDouble

/-- The operand of a long-only instruction, as the long form of an S/L one. -/
def longForm (x : Modifier) (w2 : Word) : Form := .long x 0#3 w2

/-- The word of an output-type XIO, `47_input_output.md` rules R276 and R280. -/
def State.sourceWord (s : State) (src : XioSource) (c : Parameters := parameters) : Except Stop Word :=
  match src with
  | .next data => .ok data
  | .via address => (addressIn address c).bind s.readWord
  | .a => .ok s.a

/-- Where an input-type XIO puts its word: a location, which must be installed, or none for A
(`47_input_output.md` rules R276 and R280). -/
def State.destLocation (s : State) (at_ : Site) (dst : XioDest)
    (c : Parameters := parameters) : Except Stop (Option Addr) :=
  match dst with
  | .next _ => (nextAddress at_.here).bind fun m => (s.readWord m).map fun _ => some m
  | .via address => (addressIn address c).bind fun m => (s.readWord m).map fun _ => some m
  | .a => .ok none

/-- Stores an input word at a resolved destination. -/
def State.storeInput (s : State) (dst : Option Addr) (w : Word) : State :=
  match dst with
  | some m => s.putWord m w
  | none => s.setA w

/-- The registers a DEST field selects, as five bits X1, X2, X4, A, E (rule R302; log 25): the field itself, or, as the table
was extracted, instruction bit 11 nothing and bits 10 to 7 X1, X2, X4, A. -/
def destRegisters (map : MovDestMap) (dest : BitVec 5) : BitVec 5 :=
  match map with
  | .shifted => dest
  | .asExtracted => dest <<< 1

/-- Writes `r` to every register DEST selects, rules R301 and R302. -/
def State.writeDest (s : State) (dest : BitVec 5) (r : Word) (c : Parameters := parameters) : State :=
  let selected := destRegisters c.movDestMap dest
  { s with
    x1 := if selected.getLsbD 4 then r else s.x1
    x2 := if selected.getLsbD 3 then r else s.x2
    x4 := if selected.getLsbD 2 then r else s.x4
    a := if selected.getLsbD 1 then r else s.a
    e := if selected.getLsbD 0 then r else s.e }

end Sys2Proof.Machine
end

