-- ==== Sys2Proof/Machine/Arithmetic.lean ====
section
/-! DEFINITION. ARITHMETIC, `41_arithmetic.md`: exact integer results, truncated to the width of their destination (rule R186).

Each instruction has a `perform` at a site (its own place, or the one XEC or SMM gives it) and its meaning `exec`, the
same at its own place. -/

namespace Sys2Proof.Machine

/-- ADD, rule R180: `A <- A + operand`, OV by rule R187. -/
def performAdd (o : Form) (at_ : Site) (s : State) (c : Parameters := parameters) : Answer :=
  withValue (s.operandOf at_ o c) fun v =>
    advance at_ ((s.setA (BitVec.ofInt 16 (s.a.toInt + v.toInt))).ovAfter (.add s.a v) c)

/-- The meaning of ADD. -/
def execAdd (o : Form) (s : State) : Answer := performAdd o (Site.own o.length s) s parameters

/-- SUB, rule R181: `A <- A - operand`, OV by rule R187. -/
def performSub (o : Form) (at_ : Site) (s : State) (c : Parameters := parameters) : Answer :=
  withValue (s.operandOf at_ o c) fun v =>
    advance at_ ((s.setA (BitVec.ofInt 16 (s.a.toInt - v.toInt))).ovAfter (.sub s.a v) c)

/-- The meaning of SUB. -/
def execSub (o : Form) (s : State) : Answer := performSub o (Site.own o.length s) s parameters

/-- MPY, rule R182: `AE <- MPY_FN(A, operand)`. -/
def performMpy (o : Form) (at_ : Site) (s : State) (c : Parameters := parameters) : Answer :=
  withValue (s.operandOf at_ o c) fun v =>
    advance at_ ((s.setAE (c.mpyFn s.a v)).ovAfter (.mpy s.a v) c)

/-- The meaning of MPY. -/
def execMpy (o : Form) (s : State) : Answer := performMpy o (Site.own o.length s) s parameters

/-- DAD, rule R183: `AE <- AE + (m, m + 1)`, OV by rule R187. -/
def performDad (o : Form) (at_ : Site) (s : State) (c : Parameters := parameters) : Answer :=
  withValue (s.doubleOperandOf at_ o c) fun v =>
    advance at_ ((s.setAE (BitVec.ofInt 32 (s.ae.toInt + v.toInt))).ovAfter (.dad s.ae v) c)

/-- The meaning of DAD. -/
def execDad (o : Form) (s : State) : Answer := performDad o (Site.own o.length s) s parameters

/-- DVD, rule R184: quotient to E, remainder to A, and skip; on an overflow divide A and E are free and there is no skip;
OV by rule R187. -/
def performDvd (o : Form) (at_ : Site) (s : State) (c : Parameters := parameters) : Answer :=
  withValue (s.operandOf at_ o c) fun v =>
    match c.dvdFn s.ae v with
    | some (q, r) => skip at_ (((s.setE q).setA r).ovAfter (.dvd s.ae v false) c) c
    | none => advance at_ (((s.setA (Config.drawA s.draws)).setE (Config.drawE s.draws)).ovAfter (.dvd s.ae v true) c)

/-- The meaning of DVD. -/
def execDvd (o : Form) (s : State) : Answer := performDvd o (Site.own o.length s) s parameters

/-- `Xn <- (Xn + sext8(D)) mod 2^16`, the register update of AXDn (rule R185). -/
def augmented (x : Word) (d : BitVec 8) : Word := x + displacement d

/-- What AXDn does where no meaning is supplied (rule R185): refused, or the update, a free P, and OV set or kept. Whether it
reads the word at P + 1, the card's limit, and stops where that word is not installed is open (`91_not_in_source.md` N21);
here it reads nothing there and always goes on (DESIGN CHOICE, log 19, unsafe). -/
def augmentWith (set : State → Word → State) (r : Word) (s : State) (c : Parameters := parameters) : Answer :=
  ifRun c .augmentIndexTestNotInSource (jumpTo (Config.drawP s.draws) (set s r).maySetOv)

/-- AXD1, rule R185: refused without a supplied meaning; or, where open instructions run, X1 takes the update that "is
clear", P is free ("the next value of P cannot be stated"), and OV is set or kept ("Flags: not known"; DESIGN CHOICE,
log 19, unsafe in what is kept). -/
def performAxd1 (d : BitVec 8) (at_ : Site) (s : State) (c : Parameters := parameters) : Answer :=
  namedOnlyMeaning (.axd1 d) at_ (augmentWith State.setX1 (augmented s.x1 d) s c) s c

/-- The meaning of AXD1. -/
def execAxd1 (d : BitVec 8) (s : State) : Answer := performAxd1 d (Site.own 1 s) s parameters

/-- AXD2, rule R185: refused without a supplied meaning; or, where open instructions run, X2 takes the update that "is
clear", P is free ("the next value of P cannot be stated"), and OV is set or kept ("Flags: not known"; DESIGN CHOICE,
log 19, unsafe in what is kept). -/
def performAxd2 (d : BitVec 8) (at_ : Site) (s : State) (c : Parameters := parameters) : Answer :=
  namedOnlyMeaning (.axd2 d) at_ (augmentWith State.setX2 (augmented s.x2 d) s c) s c

/-- The meaning of AXD2. -/
def execAxd2 (d : BitVec 8) (s : State) : Answer := performAxd2 d (Site.own 1 s) s parameters

/-- AXD4, rule R185: refused without a supplied meaning; or, where open instructions run, X4 takes the update that "is
clear", P is free ("the next value of P cannot be stated"), and OV is set or kept ("Flags: not known"; DESIGN CHOICE,
log 19, unsafe in what is kept). -/
def performAxd4 (d : BitVec 8) (at_ : Site) (s : State) (c : Parameters := parameters) : Answer :=
  namedOnlyMeaning (.axd4 d) at_ (augmentWith State.setX4 (augmented s.x4 d) s c) s c

/-- The meaning of AXD4. -/
def execAxd4 (d : BitVec 8) (s : State) : Answer := performAxd4 d (Site.own 1 s) s parameters

end Sys2Proof.Machine
end

