-- ==== Sys2Proof/Machine/InputOutput.lean ====
section
/-! DEFINITION. INPUT/OUTPUT, `47_input_output.md`: external XIO against the environment of rule R282, and the three internal functions.

Each instruction has a `perform` at a site (its own place, or the one XEC or SMM gives it) and its meaning `exec`, the
same at its own place. -/

namespace Sys2Proof.Machine

/-- The mode, rule R277: with X = 2 bit 8 is data and the instruction is recorded as Direct. -/
def xioMode (f : XioFunction) (bit8 : Bool) : IoMode :=
  match f with
  | .outputBit => .direct
  | _ => if bit8 then .direct else .compatible

/-- "any direct input is Status Word input": `status?` of rule R284. -/
def statusInput (mode : IoMode) (k : Bool) : Bool := mode == .compatible || k

/-- Whether the device is ready; asked only when K = 0 (rule R282). -/
def deviceReady (k : Bool) (ed : BitVec 6) (s : State) (c : Parameters := parameters) : Bool := !k && c.ioReady s.io ed

/-- External output and control, rule R283: the event, with the word if it was performed; skip if K = 0 and ready. -/
def performOutput (f : XioFunction) (out : Option Word) (bit8 k : Bool) (ed : BitVec 6) (at_ : Site) (s : State)
    (c : Parameters := parameters) : Answer :=
  let ready := deviceReady k ed s c
  let done := k || ready
  let event : IoEvent :=
    ⟨ed, f.encode.1, xioMode f bit8, k, done, if done then out else none, none⟩
  skipIf ready at_ (s.record event) c

/-- External input, rule R284: the word the environment supplies goes to the destination if the operation is performed;
skip if K = 0 and ready. -/
def performInput (f : XioFunction) (dst : Option Addr) (bit8 k : Bool) (ed : BitVec 6) (at_ : Site) (s : State)
    (c : Parameters := parameters) : Answer :=
  let mode := xioMode f bit8
  let ready := deviceReady k ed s c
  let done := k || ready
  let iw := c.ioInput s.io ed mode (statusInput mode k)
  let event : IoEvent := ⟨ed, f.encode.1, mode, k, done, none, if done then some iw else none⟩
  skipIf ready at_ ((if done then s.storeInput dst iw else s).record event) c

/-- External XIO, rules R275, R276 and R282 to R284; the operand words are read whether or not it is performed. -/
def performXio (f : XioFunction) (bit8 k : Bool) (ed : BitVec 6) (at_ : Site) (s : State)
    (c : Parameters := parameters) : Answer :=
  match f with
  | .output src => withValue (s.sourceWord src c) fun w => performOutput f (some w) bit8 k ed at_ s c
  | .outputBit => performOutput f (some ((BitVec.ofBool bit8).setWidth 16)) bit8 k ed at_ s c
  | .control => performOutput f none bit8 k ed at_ s c
  | .input dst => withValue (s.destLocation at_ dst c) fun m => performInput f m bit8 k ed at_ s c

/-- The meaning of an external XIO. -/
def execXio (f : XioFunction) (c : Bool) (k : Bool) (ed : BitVec 6) (s : State) : Answer :=
  performXio f c k ed (Site.own f.length s) s parameters

/-- Whether a condition the Output Data Word selects is one, rules R286 and R288: bits 5 to 8 the sense switches, bit 9
OV, bit 10 SPIO, bit 11 EPI. -/
def State.conditionMet (s : State) (dw : Word) (c : Parameters := parameters) : Bool :=
  (dw.getLsbD 4 && (c.sense s.draws).getLsbD 0) ||
  (dw.getLsbD 5 && (c.sense s.draws).getLsbD 1) ||
  (dw.getLsbD 6 && (c.sense s.draws).getLsbD 2) ||
  (dw.getLsbD 7 && (c.sense s.draws).getLsbD 3) ||
  (dw.getLsbD 8 && s.ov) || (dw.getLsbD 9 && s.spio) || (dw.getLsbD 10 && s.epi)

/-- Internal Test, rule R286: skip if every condition tested is zero; OV is cleared if bit 9 tests it. -/
def performInternalTest (src : XioSource) (at_ : Site) (s : State) (c : Parameters := parameters) : Answer :=
  withValue (s.sourceWord src c) fun dw => skipIf (!s.conditionMet dw c) at_ (s.clearOvIf (dw.getLsbD 8)) c

/-- The meaning of Internal Test. -/
def execInternalTest (src : XioSource) (s : State) : Answer :=
  performInternalTest src (Site.own src.length s) s parameters

/-- Internal Set, rule R287: SPIO (bit 10) and EPI (bit 11), if selected, take the value of bit 1. -/
def performInternalSet (src : XioSource) (at_ : Site) (s : State) (c : Parameters := parameters) : Answer :=
  withValue (s.sourceWord src c) fun dw =>
    let v := dw.getLsbD 0
    let s1 := if dw.getLsbD 9 then s.setSpio v else s
    advance at_ (if dw.getLsbD 10 then s1.setEpi v else s1)

/-- The meaning of Internal Set. -/
def execInternalSet (src : XioSource) (s : State) : Answer :=
  performInternalSet src (Site.own src.length s) s parameters

/-- The Input Word of Internal Input, rule R285: bit 11 is 1 and the scanner is in bits 6-1. -/
def State.scannerWord (s : State) (c : Parameters := parameters) : Word := 0x0400#16 ||| (c.scanner s.draws).setWidth 16

/-- Internal Input, rule R285: the Input Word goes to the destination. -/
def performInternalInput (dst : XioDest) (at_ : Site) (s : State) (c : Parameters := parameters) : Answer :=
  withValue (s.destLocation at_ dst c) fun m => advance at_ (s.storeInput m (s.scannerWord c))

/-- The meaning of Internal Input. -/
def execInternalInput (dst : XioDest) (s : State) : Answer :=
  performInternalInput dst (Site.own dst.length s) s parameters

end Sys2Proof.Machine
end

