-- ==== Sys2Proof/Machine/Jump.lean ====
section
/-! DEFINITION. JUMP, BRANCH, SKIP, `43_jump_branch_skip.md`, but for XEC (`Execute.lean`).

Each instruction has a `perform` at a site (its own place, or the one XEC or SMM gives it) and its meaning `exec`, the
same at its own place. -/

namespace Sys2Proof.Machine

/-- A conditional jump: the address is formed whether or not the condition holds (rule R213). -/
def jumpIf (cond : Bool) (o : Form) (at_ : Site) (s : State) (c : Parameters := parameters) : Answer :=
  withValue (s.effectiveAddress at_ o c) fun m => if cond then jumpTo m s else advance at_ s

/-- Compares A with the operand (class READ1) and skips if `cond` holds of the two, rule R224. -/
def compareWith (cond : Word → Word → Bool) (o : Form) (at_ : Site) (s : State)
    (c : Parameters := parameters) : Answer :=
  withValue (s.operandOf at_ o c) fun v => skipIf (cond s.a v) at_ s c

/-- Adds `k` to the word at the location (class RMW1) and skips if the result is zero or changes sign, rules R220 and
R221; OV by rule R187 of `41_arithmetic.md`. -/
def addToMemory (k : BitVec 3) (o : Form) (at_ : Site) (s : State) (c : Parameters := parameters) : Answer :=
  withValue (s.locationOf at_ o c) fun m =>
    withValue (s.readWord m) fun old =>
      let r := old + k.setWidth 16
      withValue (s.writeWord m r) fun s' =>
        skipIf (r == 0#16 || r.msb != old.msb) at_ (s'.ovAfter (.addToMemory k old) c) c

/-- JMP, rule R211: `P <- m`. -/
def performJmp (o : Form) (at_ : Site) (s : State) (c : Parameters := parameters) : Answer :=
  withValue (s.effectiveAddress at_ o c) fun m => jumpTo m s

/-- The meaning of JMP. -/
def execJmp (o : Form) (s : State) : Answer := performJmp o (Site.own o.length s) s parameters

/-- JCI, rule R212: `INTR <- 0; P <- m`. -/
def performJci (o : Form) (at_ : Site) (s : State) (c : Parameters := parameters) : Answer :=
  withValue (s.effectiveAddress at_ o c) fun m => jumpTo m s.clearInterrupt

/-- The meaning of JCI. -/
def execJci (o : Form) (s : State) : Answer := performJci o (Site.own o.length s) s parameters

/-- JLZ, rule R213: `if A[16] = 1 then P <- m`. -/
def performJlz (o : Form) (at_ : Site) (s : State) (c : Parameters := parameters) : Answer := jumpIf s.a.msb o at_ s c

/-- The meaning of JLZ. -/
def execJlz (o : Form) (s : State) : Answer := performJlz o (Site.own o.length s) s parameters

/-- JEZ, rule R214: `if A = 0 then P <- m`. -/
def performJez (o : Form) (at_ : Site) (s : State) (c : Parameters := parameters) : Answer :=
  jumpIf (s.a == 0#16) o at_ s c

/-- The meaning of JEZ. -/
def execJez (o : Form) (s : State) : Answer := performJez o (Site.own o.length s) s parameters

/-- JGZ, rule R215: `if A[16] = 0 and A != 0 then P <- m`. -/
def performJgz (o : Form) (at_ : Site) (s : State) (c : Parameters := parameters) : Answer :=
  jumpIf (!s.a.msb && s.a != 0#16) o at_ s c

/-- The meaning of JGZ. -/
def execJgz (o : Form) (s : State) : Answer := performJgz o (Site.own o.length s) s parameters

/-- The word RTJ stores, rule R223: `next` zero-extended, which must be an address (`10_state.md` rule R35) but need not be
installed, since P does not go there. -/
def returnWord (at_ : Site) : Except Stop Word :=
  if at_.next < addressSpace then .ok (BitVec.ofNat 16 at_.next)
  else .error (.fault .pOutsideMemory)

/-- RTJ, rule R223: `M[m] <- next; P <- m + 1`. -/
def performRtj (o : Form) (at_ : Site) (s : State) (c : Parameters := parameters) : Answer :=
  withValue (s.effectiveAddress at_ o c) fun m =>
    withValue (returnWord at_) fun w =>
      withValue (nextAddress m) fun m1 =>
        withValue (s.writeWord m w) fun s' => jumpTo m1 s'

/-- The meaning of RTJ. -/
def execRtj (o : Form) (s : State) : Answer := performRtj o (Site.own o.length s) s parameters

/-- What the test of bits of JTB leaves behind is not on the card: A and E are free, and OV is set or kept (DESIGN CHOICE,
log 20, unsafe in what is kept). -/
def bitsTested (s : State) : State := ((s.setA (Config.drawA s.draws)).setE (Config.drawE s.draws)).maySetOv

/-- The jump of JTB, rule R222: "(m + k) -> P", by its candidate reading bits 15-1 of the word there. k is free, so the
location is taken modulo the address space (DESIGN CHOICE, log 20). -/
def jumpThroughTable (o : Form) (at_ : Site) (s : State) (c : Parameters := parameters) : Answer :=
  withValue (s.effectiveAddress at_ o c) fun m =>
    withValue (s.readWord (m + Config.drawCount s.draws)) fun w =>
      jumpTo (w.setWidth 15) (bitsTested s)

/-- JTB, rule R222: refused without a supplied meaning; or, where open instructions run, its jump with what is open free. -/
def performJtb (o : Form) (at_ : Site) (s : State) (c : Parameters := parameters) : Answer :=
  namedOnlyMeaning (.jtb o) at_ (ifRun c .tableCountNotInSource (jumpThroughTable o at_ s c)) s c

/-- The meaning of JTB. -/
def execJtb (o : Form) (s : State) : Answer := performJtb o (Site.own o.length s) s parameters

/-- KAL, rule R217: skip if `s16(A) < s16(operand)`. -/
def performKal (o : Form) (at_ : Site) (s : State) (c : Parameters := parameters) : Answer :=
  compareWith (fun a v => decide (a.toInt < v.toInt)) o at_ s c

/-- The meaning of KAL. -/
def execKal (o : Form) (s : State) : Answer := performKal o (Site.own o.length s) s parameters

/-- KAQ, rule R218: skip if `A = operand`. -/
def performKaq (o : Form) (at_ : Site) (s : State) (c : Parameters := parameters) : Answer :=
  compareWith (fun a v => a == v) o at_ s c

/-- The meaning of KAQ. -/
def execKaq (o : Form) (s : State) : Answer := performKaq o (Site.own o.length s) s parameters

/-- KAH, rule R219: skip if `s16(A) > s16(operand)`. -/
def performKah (o : Form) (at_ : Site) (s : State) (c : Parameters := parameters) : Answer :=
  compareWith (fun a v => decide (a.toInt > v.toInt)) o at_ s c

/-- The meaning of KAH. -/
def execKah (o : Form) (s : State) : Answer := performKah o (Site.own o.length s) s parameters

/-- IMT, rule R220: `M[m] <- M[m] + 1`. -/
def performImt (o : Form) (at_ : Site) (s : State) (c : Parameters := parameters) : Answer := addToMemory 1#3 o at_ s c

/-- The meaning of IMT. -/
def execImt (o : Form) (s : State) : Answer := performImt o (Site.own o.length s) s parameters

/-- AMT0, rule R221: `M[m] <- M[m] + 0`. -/
def performAmt0 (x : Modifier) (w2 : Word) (at_ : Site) (s : State) (c : Parameters := parameters) : Answer :=
  addToMemory 0#3 (longForm x w2) at_ s c

/-- The meaning of AMT0. -/
def execAmt0 (x : Modifier) (w2 : Word) (s : State) : Answer := performAmt0 x w2 (Site.own 2 s) s parameters

/-- AMT2, rule R221: `M[m] <- M[m] + 2`. -/
def performAmt2 (x : Modifier) (w2 : Word) (at_ : Site) (s : State) (c : Parameters := parameters) : Answer :=
  addToMemory 2#3 (longForm x w2) at_ s c

/-- The meaning of AMT2. -/
def execAmt2 (x : Modifier) (w2 : Word) (s : State) : Answer := performAmt2 x w2 (Site.own 2 s) s parameters

/-- AMT3, rule R221: `M[m] <- M[m] + 3`. -/
def performAmt3 (x : Modifier) (w2 : Word) (at_ : Site) (s : State) (c : Parameters := parameters) : Answer :=
  addToMemory 3#3 (longForm x w2) at_ s c

/-- The meaning of AMT3. -/
def execAmt3 (x : Modifier) (w2 : Word) (s : State) : Answer := performAmt3 x w2 (Site.own 2 s) s parameters

/-- AMT4, rule R221: `M[m] <- M[m] + 4`. -/
def performAmt4 (x : Modifier) (w2 : Word) (at_ : Site) (s : State) (c : Parameters := parameters) : Answer :=
  addToMemory 4#3 (longForm x w2) at_ s c

/-- The meaning of AMT4. -/
def execAmt4 (x : Modifier) (w2 : Word) (s : State) : Answer := performAmt4 x w2 (Site.own 2 s) s parameters

/-- AMT5, rule R221: `M[m] <- M[m] + 5`. -/
def performAmt5 (x : Modifier) (w2 : Word) (at_ : Site) (s : State) (c : Parameters := parameters) : Answer :=
  addToMemory 5#3 (longForm x w2) at_ s c

/-- The meaning of AMT5. -/
def execAmt5 (x : Modifier) (w2 : Word) (s : State) : Answer := performAmt5 x w2 (Site.own 2 s) s parameters

/-- AMT6, rule R221: `M[m] <- M[m] + 6`. -/
def performAmt6 (x : Modifier) (w2 : Word) (at_ : Site) (s : State) (c : Parameters := parameters) : Answer :=
  addToMemory 6#3 (longForm x w2) at_ s c

/-- The meaning of AMT6. -/
def execAmt6 (x : Modifier) (w2 : Word) (s : State) : Answer := performAmt6 x w2 (Site.own 2 s) s parameters

/-- AMT7, rule R221: `M[m] <- M[m] + 7`. -/
def performAmt7 (x : Modifier) (w2 : Word) (at_ : Site) (s : State) (c : Parameters := parameters) : Answer :=
  addToMemory 7#3 (longForm x w2) at_ s c

/-- The meaning of AMT7. -/
def execAmt7 (x : Modifier) (w2 : Word) (s : State) : Answer := performAmt7 x w2 (Site.own 2 s) s parameters

end Sys2Proof.Machine
end

