-- ==== Sys2Proof/Machine/LoadStore.lean ====
section
/-! DEFINITION. LOAD AND STORE, `40_load_store.md`. None of them touches a flip-flop.

Each instruction has a `perform` at a site (its own place, or the one XEC or SMM gives it) and its meaning `exec`, the
same at its own place. -/

namespace Sys2Proof.Machine

/-- Loads the operand (class READ1) with `set`, then advances. -/
def loadWith (set : State → Word → State) (o : Form) (at_ : Site) (s : State) (c : Parameters := parameters) : Answer :=
  withValue (s.operandOf at_ o c) fun v => advance at_ (set s v)

/-- Stores `w` at the location (class WRITE1), then advances. -/
def storeWord (w : Word) (o : Form) (at_ : Site) (s : State) (c : Parameters := parameters) : Answer :=
  withValue (s.locationOf at_ o c) fun m => withValue (s.writeWord m w) fun s' => advance at_ s'

/-- LDA, rule R150: `A <- operand`. -/
def performLda (o : Form) (at_ : Site) (s : State) (c : Parameters := parameters) : Answer :=
  loadWith State.setA o at_ s c

/-- The meaning of LDA. -/
def execLda (o : Form) (s : State) : Answer := performLda o (Site.own o.length s) s parameters

/-- LDE, rule R151: `E <- operand`. -/
def performLde (o : Form) (at_ : Site) (s : State) (c : Parameters := parameters) : Answer :=
  loadWith State.setE o at_ s c

/-- The meaning of LDE. -/
def execLde (o : Form) (s : State) : Answer := performLde o (Site.own o.length s) s parameters

/-- LDX1, rule R152: `X1 <- operand`; the operation code, 10 or 11, makes no difference. -/
def performLdx1 (_alt : Bool) (x : Modifier) (w2 : Word) (at_ : Site) (s : State)
    (c : Parameters := parameters) : Answer :=
  loadWith State.setX1 (longForm x w2) at_ s c

/-- The meaning of LDX1. -/
def execLdx1 (alt : Bool) (x : Modifier) (w2 : Word) (s : State) : Answer :=
  performLdx1 alt x w2 (Site.own 2 s) s parameters

/-- LDX2, rule R152: `X2 <- operand`; the operation code, 10 or 11, makes no difference. -/
def performLdx2 (_alt : Bool) (x : Modifier) (w2 : Word) (at_ : Site) (s : State)
    (c : Parameters := parameters) : Answer :=
  loadWith State.setX2 (longForm x w2) at_ s c

/-- The meaning of LDX2. -/
def execLdx2 (alt : Bool) (x : Modifier) (w2 : Word) (s : State) : Answer :=
  performLdx2 alt x w2 (Site.own 2 s) s parameters

/-- LDX4, rule R152: `X4 <- operand`; the operation code, 10 or 11, makes no difference. -/
def performLdx4 (_alt : Bool) (x : Modifier) (w2 : Word) (at_ : Site) (s : State)
    (c : Parameters := parameters) : Answer :=
  loadWith State.setX4 (longForm x w2) at_ s c

/-- The meaning of LDX4. -/
def execLdx4 (alt : Bool) (x : Modifier) (w2 : Word) (s : State) : Answer :=
  performLdx4 alt x w2 (Site.own 2 s) s parameters

/-- DLA, rule R153: `A <- M[m]; E <- M[m + 1]`. -/
def performDla (o : Form) (at_ : Site) (s : State) (c : Parameters := parameters) : Answer :=
  withValue (s.doubleOperandOf at_ o c) fun v => advance at_ (s.setAE v)

/-- The meaning of DLA. -/
def execDla (o : Form) (s : State) : Answer := performDla o (Site.own o.length s) s parameters

/-- CLS, rule R154: the card gives a name and an encoding, and the spec no effect. -/
def performCls (x : Modifier) (w2 : Word) (at_ : Site) (s : State) (c : Parameters := parameters) : Answer :=
  namedOnlyMeaning (.cls x w2) at_ (.refused .clearProtectSingleNotInSource) s c

/-- The meaning of CLS. -/
def execCls (x : Modifier) (w2 : Word) (s : State) : Answer := performCls x w2 (Site.own 2 s) s parameters

/-- CLD, rule R155: the card gives a name and an encoding, and the spec no effect. -/
def performCld (x : Modifier) (w2 : Word) (at_ : Site) (s : State) (c : Parameters := parameters) : Answer :=
  namedOnlyMeaning (.cld x w2) at_ (.refused .clearProtectDoubleNotInSource) s c

/-- The meaning of CLD. -/
def execCld (x : Modifier) (w2 : Word) (s : State) : Answer := performCld x w2 (Site.own 2 s) s parameters

/-- PRS, rule R156: the card gives a name and an encoding, and the spec no effect. -/
def performPrs (x : Modifier) (w2 : Word) (at_ : Site) (s : State) (c : Parameters := parameters) : Answer :=
  namedOnlyMeaning (.prs x w2) at_ (.refused .protectSingleNotInSource) s c

/-- The meaning of PRS. -/
def execPrs (x : Modifier) (w2 : Word) (s : State) : Answer := performPrs x w2 (Site.own 2 s) s parameters

/-- PRD, rule R157: the card gives a name and an encoding, and the spec no effect. -/
def performPrd (x : Modifier) (w2 : Word) (at_ : Site) (s : State) (c : Parameters := parameters) : Answer :=
  namedOnlyMeaning (.prd x w2) at_ (.refused .protectDoubleNotInSource) s c

/-- The meaning of PRD. -/
def execPrd (x : Modifier) (w2 : Word) (s : State) : Answer := performPrd x w2 (Site.own 2 s) s parameters

/-- STA, rule R158: `M[m] <- A`. -/
def performSta (o : Form) (at_ : Site) (s : State) (c : Parameters := parameters) : Answer := storeWord s.a o at_ s c

/-- The meaning of STA. -/
def execSta (o : Form) (s : State) : Answer := performSta o (Site.own o.length s) s parameters

/-- STE, rule R159: `M[m] <- E`. -/
def performSte (o : Form) (at_ : Site) (s : State) (c : Parameters := parameters) : Answer := storeWord s.e o at_ s c

/-- The meaning of STE. -/
def execSte (o : Form) (s : State) : Answer := performSte o (Site.own o.length s) s parameters

/-- DST, rule R160: `M[m] <- A; M[m + 1] <- E`. -/
def performDst (o : Form) (at_ : Site) (s : State) (c : Parameters := parameters) : Answer :=
  withValue (s.effectiveAddress at_ o c) fun m =>
    withValue (s.writeDouble m s.a s.e) fun s' => advance at_ s'

/-- The meaning of DST. -/
def execDst (o : Form) (s : State) : Answer := performDst o (Site.own o.length s) s parameters

/-- STX1, rule R161: `M[m] <- R[1]`, that is X1; the operation code, 22 or 23, makes no difference. -/
def performStx1 (_alt : Bool) (x : Modifier) (w2 : Word) (at_ : Site) (s : State)
    (c : Parameters := parameters) : Answer :=
  storeWord (s.reg 1#3) (longForm x w2) at_ s c

/-- The meaning of STX1. -/
def execStx1 (alt : Bool) (x : Modifier) (w2 : Word) (s : State) : Answer :=
  performStx1 alt x w2 (Site.own 2 s) s parameters

/-- STX2, rule R161: `M[m] <- R[2]`, that is X2; the operation code, 22 or 23, makes no difference. -/
def performStx2 (_alt : Bool) (x : Modifier) (w2 : Word) (at_ : Site) (s : State)
    (c : Parameters := parameters) : Answer :=
  storeWord (s.reg 2#3) (longForm x w2) at_ s c

/-- The meaning of STX2. -/
def execStx2 (alt : Bool) (x : Modifier) (w2 : Word) (s : State) : Answer :=
  performStx2 alt x w2 (Site.own 2 s) s parameters

/-- STX4, rule R161: `M[m] <- R[3]`, that is X4; the operation code, 22 or 23, makes no difference. -/
def performStx4 (_alt : Bool) (x : Modifier) (w2 : Word) (at_ : Site) (s : State)
    (c : Parameters := parameters) : Answer :=
  storeWord (s.reg 3#3) (longForm x w2) at_ s c

/-- The meaning of STX4. -/
def execStx4 (alt : Bool) (x : Modifier) (w2 : Word) (s : State) : Answer :=
  performStx4 alt x w2 (Site.own 2 s) s parameters

/-- STZ, rule R162: `M[m] <- 0`, register code 0 (`10_state.md` rule R36); operation code 22 or 23. -/
def performStz (_alt : Bool) (x : Modifier) (w2 : Word) (at_ : Site) (s : State)
    (c : Parameters := parameters) : Answer :=
  storeWord (s.reg 0#3) (longForm x w2) at_ s c

/-- The meaning of STZ. -/
def execStz (alt : Bool) (x : Modifier) (w2 : Word) (s : State) : Answer :=
  performStz alt x w2 (Site.own 2 s) s parameters

end Sys2Proof.Machine
end

