-- ==== Sys2Proof/Machine/Logical.lean ====
section
/-! DEFINITION. LOGICAL, `42_logical.md`: the register operand is E and the destination A, as the card prints them (rule R203). No flag.

Each instruction has a `perform` at a site (its own place, or the one XEC or SMM gives it) and its meaning `exec`, the
same at its own place. -/

namespace Sys2Proof.Machine

/-- LOR, rule R200: `A <- E | operand`. -/
def performLor (o : Form) (at_ : Site) (s : State) (c : Parameters := parameters) : Answer :=
  withValue (s.operandOf at_ o c) fun v => advance at_ (s.setA (s.e ||| v))

/-- The meaning of LOR. -/
def execLor (o : Form) (s : State) : Answer := performLor o (Site.own o.length s) s parameters

/-- AND, rule R201: `A <- E & operand`. -/
def performAnd (o : Form) (at_ : Site) (s : State) (c : Parameters := parameters) : Answer :=
  withValue (s.operandOf at_ o c) fun v => advance at_ (s.setA (s.e &&& v))

/-- The meaning of AND. -/
def execAnd (o : Form) (s : State) : Answer := performAnd o (Site.own o.length s) s parameters

/-- XOR, rule R202: `A <- E ^ operand`. -/
def performXor (o : Form) (at_ : Site) (s : State) (c : Parameters := parameters) : Answer :=
  withValue (s.operandOf at_ o c) fun v => advance at_ (s.setA (s.e ^^^ v))

/-- The meaning of XOR. -/
def execXor (o : Form) (s : State) : Answer := performXor o (Site.own o.length s) s parameters

end Sys2Proof.Machine
end

