-- ==== Sys2Proof/Machine/Misc.lean ====
section
/-! DEFINITION. MISCELLANEOUS, `48_miscellaneous.md`: the MOV family and PIn.

Each instruction has a `perform` at a site (its own place, or the one XEC or SMM gives it) and its meaning `exec`, the
same at its own place. -/

namespace Sys2Proof.Machine

/-- The MOV family, rule R301: `f` of the source register goes to every register DEST selects. -/
def moveWith (f : Word → Word) (dest : BitVec 5) (source : BitVec 3) (at_ : Site) (s : State)
    (c : Parameters := parameters) : Answer :=
  advance at_ (s.writeDest dest (f (s.reg source)) c)

/-- MOV, rule R303: the source itself. -/
def performMov (dest : BitVec 5) (source : BitVec 3) (at_ : Site) (s : State) (c : Parameters := parameters) : Answer :=
  moveWith (fun v => v) dest source at_ s c

/-- The meaning of MOV. -/
def execMov (dest : BitVec 5) (source : BitVec 3) (s : State) : Answer :=
  performMov dest source (Site.own 1 s) s parameters

/-- CMP, rule R304: the ones' complement of the source. -/
def performCmp (dest : BitVec 5) (source : BitVec 3) (at_ : Site) (s : State) (c : Parameters := parameters) : Answer :=
  moveWith (fun v => ~~~v) dest source at_ s c

/-- The meaning of CMP. -/
def execCmp (dest : BitVec 5) (source : BitVec 3) (s : State) : Answer :=
  performCmp dest source (Site.own 1 s) s parameters

/-- MAO, rule R305: the source plus one; OV by rule R187. -/
def performMao (dest : BitVec 5) (source : BitVec 3) (at_ : Site) (s : State) (c : Parameters := parameters) : Answer :=
  moveWith (fun v => v + 1#16) dest source at_ (s.ovAfter (.mao (s.reg source)) c) c

/-- The meaning of MAO. -/
def execMao (dest : BitVec 5) (source : BitVec 3) (s : State) : Answer :=
  performMao dest source (Site.own 1 s) s parameters

/-- NEG, rule R306: the two's complement of the source; OV by rule R187. -/
def performNeg (dest : BitVec 5) (source : BitVec 3) (at_ : Site) (s : State) (c : Parameters := parameters) : Answer :=
  moveWith (fun v => 0#16 - v) dest source at_ (s.ovAfter (.neg (s.reg source)) c) c

/-- The meaning of NEG. -/
def execNeg (dest : BitVec 5) (source : BitVec 3) (s : State) : Answer :=
  performNeg dest source (Site.own 1 s) s parameters

/-- The PI address of code N, "N + 40₈ = Address": locations `0o40` to `0o77` (rule R300, `20_memory.md` rule R79). -/
def piAddress (n : BitVec 5) : Addr := 0o40#15 + n.setWidth 15

/-- PIn, rule R300: the card gives the PI address and no action there, and the spec no effect. -/
def performPin (x : Modifier) (n : BitVec 5) (w2 : Word) (at_ : Site) (s : State)
    (c : Parameters := parameters) : Answer :=
  namedOnlyMeaning (.pin x n w2) at_ (.refused (.programmedInstructionNotInSource (piAddress n))) s c

/-- The meaning of PIn. -/
def execPin (x : Modifier) (n : BitVec 5) (w2 : Word) (s : State) : Answer :=
  performPin x n w2 (Site.own 2 s) s parameters

end Sys2Proof.Machine
end

