-- ==== Sys2Proof/Machine/Shift.lean ====
section
/-! DEFINITION. SHIFT, `45_shift.md`. A shift by n is the one-place shift n times (rule R245); single shifts leave E alone.

Each instruction has a `perform` at a site (its own place, or the one XEC or SMM gives it) and its meaning `exec`, the
same at its own place. -/

namespace Sys2Proof.Machine

/-- `f` applied `n` times, rule R245. -/
def times {α : Type} (f : α → α) : Nat → α → α
  | 0, v => v
  | n + 1, v => times f n (f v)

/-- One place right, the sign copied into the vacated position (rules R246 and R247). -/
def arithmeticRight1 {w : Nat} (v : BitVec w) : BitVec w := v.sshiftRight 1
/-- One place right, zero entering on the left (rules R251 and R252). -/
def logicalRight1 {w : Nat} (v : BitVec w) : BitVec w := v >>> 1
/-- One place left, zero entering on the right (rules R253 and R254). -/
def logicalLeft1 {w : Nat} (v : BitVec w) : BitVec w := v <<< 1
/-- One place left, the bit that leaves entering on the right (rules R255 and R256). -/
def circularLeft1 {w : Nat} (v : BitVec w) : BitVec w := v.rotateLeft 1

/-- Shifts A by n places and advances. -/
def shiftA (f : Word → Word) (n : BitVec 7) (at_ : Site) (s : State) : Answer :=
  advance at_ (s.setA (times f n.toNat s.a))

/-- Shifts AE by n places and advances. -/
def shiftAE (f : DWord → DWord) (n : BitVec 7) (at_ : Site) (s : State) : Answer :=
  advance at_ (s.setAE (times f n.toNat s.ae))

/-- RSA, rule R246: arithmetic right shift of A; D8 has no stated effect (log 22). -/
def performRsa (_d8 : Bool) (n : BitVec 7) (at_ : Site) (s : State) : Answer := shiftA arithmeticRight1 n at_ s

/-- The meaning of RSA. -/
def execRsa (d8 : Bool) (n : BitVec 7) (s : State) : Answer := performRsa d8 n (Site.own 1 s) s

/-- RSD, rule R247: arithmetic right shift of AE; D8 has no stated effect (log 22). -/
def performRsd (_d8 : Bool) (n : BitVec 7) (at_ : Site) (s : State) : Answer := shiftAE arithmeticRight1 n at_ s

/-- The meaning of RSD. -/
def execRsd (d8 : Bool) (n : BitVec 7) (s : State) : Answer := performRsd d8 n (Site.own 1 s) s

/-- LSA, rules R248 and R249: `A <- A * 2^n` where no significant bit is lost; otherwise "arithmetic left shift
loses significance" is refused (decision D22; log 21). OV by rules R245 and R187: unchanged. -/
def performLsa (n : BitVec 7) (at_ : Site) (s : State) (c : Parameters := parameters) : Answer :=
  let t := s.a.toInt * 2 ^ n.toNat
  if fits16 t then advance at_ ((s.setA (BitVec.ofInt 16 t)).ovAfter (.lsa s.a n) c)
  else .refused .arithmeticLeftShiftLosesSignificance

/-- The meaning of LSA. -/
def execLsa (n : BitVec 7) (s : State) : Answer := performLsa n (Site.own 1 s) s parameters

/-- LSD, rules R250 and R249: `AE <- AE * 2^n` where no significant bit is lost; otherwise "arithmetic left
shift loses significance" is refused (decision D22; log 21). OV by rules R245 and R187: unchanged. -/
def performLsd (n : BitVec 7) (at_ : Site) (s : State) (c : Parameters := parameters) : Answer :=
  let t := s.ae.toInt * 2 ^ n.toNat
  if fits32 t then advance at_ ((s.setAE (BitVec.ofInt 32 t)).ovAfter (.lsd s.ae n) c)
  else .refused .arithmeticLeftShiftLosesSignificance

/-- The meaning of LSD. -/
def execLsd (n : BitVec 7) (s : State) : Answer := performLsd n (Site.own 1 s) s parameters

/-- RLA, rule R251: logical right shift of A. -/
def performRla (n : BitVec 7) (at_ : Site) (s : State) : Answer := shiftA logicalRight1 n at_ s

/-- The meaning of RLA. -/
def execRla (n : BitVec 7) (s : State) : Answer := performRla n (Site.own 1 s) s

/-- RLD, rule R252: logical right shift of AE; D8 has no stated effect (log 22). -/
def performRld (_d8 : Bool) (n : BitVec 7) (at_ : Site) (s : State) : Answer := shiftAE logicalRight1 n at_ s

/-- The meaning of RLD. -/
def execRld (d8 : Bool) (n : BitVec 7) (s : State) : Answer := performRld d8 n (Site.own 1 s) s

/-- LLA, rule R253: logical left shift of A. -/
def performLla (n : BitVec 7) (at_ : Site) (s : State) : Answer := shiftA logicalLeft1 n at_ s

/-- The meaning of LLA. -/
def execLla (n : BitVec 7) (s : State) : Answer := performLla n (Site.own 1 s) s

/-- LLD, rule R254: logical left shift of AE. -/
def performLld (n : BitVec 7) (at_ : Site) (s : State) : Answer := shiftAE logicalLeft1 n at_ s

/-- The meaning of LLD. -/
def execLld (n : BitVec 7) (s : State) : Answer := performLld n (Site.own 1 s) s

/-- CSA, rule R255: circular left shift of A. -/
def performCsa (n : BitVec 7) (at_ : Site) (s : State) : Answer := shiftA circularLeft1 n at_ s

/-- The meaning of CSA. -/
def execCsa (n : BitVec 7) (s : State) : Answer := performCsa n (Site.own 1 s) s

/-- CSD, rule R256: circular left shift of AE. -/
def performCsd (n : BitVec 7) (at_ : Site) (s : State) : Answer := shiftAE circularLeft1 n at_ s

/-- The meaning of CSD. -/
def execCsd (n : BitVec 7) (s : State) : Answer := performCsd n (Site.own 1 s) s

/-- NOP, rule R258: any shift word with count 0. -/
def performNop (_x : BitVec 3) (_d8 : Bool) (at_ : Site) (s : State) : Answer := advance at_ s

/-- The meaning of NOP. -/
def execNop (x : BitVec 3) (d8 : Bool) (s : State) : Answer := performNop x d8 (Site.own 1 s) s

/-- TRN, rule R257: the card gives a name and an encoding, and the spec no effect. -/
def performTrn (n : BitVec 7) (at_ : Site) (s : State) (c : Parameters := parameters) : Answer :=
  namedOnlyMeaning (.trn n) at_ (.refused .transposeNotInSource) s c

/-- The meaning of TRN. -/
def execTrn (n : BitVec 7) (s : State) : Answer := performTrn n (Site.own 1 s) s parameters

/-- NRM, rule R259: the card gives a name and an encoding, and the spec no effect. -/
def performNrm (n : BitVec 7) (at_ : Site) (s : State) (c : Parameters := parameters) : Answer :=
  namedOnlyMeaning (.nrm n) at_ (.refused .normalizeNotInSource) s c

/-- The meaning of NRM. -/
def execNrm (n : BitVec 7) (s : State) : Answer := performNrm n (Site.own 1 s) s parameters

/-- TAL, rule R260: the card gives a name and an encoding, and the spec no effect. -/
def performTal (n : BitVec 7) (at_ : Site) (s : State) (c : Parameters := parameters) : Answer :=
  namedOnlyMeaning (.tal n) at_ (.refused .tallyNotInSource) s c

/-- The meaning of TAL. -/
def execTal (n : BitVec 7) (s : State) : Answer := performTal n (Site.own 1 s) s parameters

end Sys2Proof.Machine
end

