-- ==== Sys2Proof/Machine/Status.lean ====
section
/-! DEFINITION. STATUS, `46_status.md`: the card gives no format of the status and no place for it.

Each instruction has a `perform` at a site (its own place, or the one XEC or SMM gives it) and its meaning `exec`, the
same at its own place. -/

namespace Sys2Proof.Machine

/-- SST, rule R270: the card gives a name and an encoding, and the spec no effect. -/
def performSst (u : BitVec 7) (at_ : Site) (s : State) (c : Parameters := parameters) : Answer :=
  namedOnlyMeaning (.sst u) at_ (.refused .storeStatusNotInSource) s c

/-- The meaning of SST. -/
def execSst (u : BitVec 7) (s : State) : Answer := performSst u (Site.own 1 s) s parameters

/-- LST, rule R271: the card gives a name and an encoding, and the spec no effect. -/
def performLst (u : BitVec 7) (at_ : Site) (s : State) (c : Parameters := parameters) : Answer :=
  namedOnlyMeaning (.lst u) at_ (.refused .loadStatusNotInSource) s c

/-- The meaning of LST. -/
def execLst (u : BitVec 7) (s : State) : Answer := performLst u (Site.own 1 s) s parameters

end Sys2Proof.Machine
end

