-- ==== Sys2Proof/Machine/Execute.lean ====
section
/-! DEFINITION. XEC (`43_jump_branch_skip.md` rule R216): performing a remote instruction, which SMM does too. -/

namespace Sys2Proof.Machine

/-- A form whose operand does not depend on P: not short X = 0 or 4, not long X = 7 (`43_jump_branch_skip.md` R216). -/
def freeOfP : Form → Bool
  | .short x _ => x != .base && x != .indirect
  | .long x _ _ => x != .literal

/-- `admitted(r)` of `43_jump_branch_skip.md` rule R216: the remote instructions for which "every plausible reading of
'execute remotely' gives the same result". -/
def admitted : Instr → Bool
  | .lda o | .lde o | .dla o | .sta o | .ste o | .dst o | .add o | .sub o | .mpy o | .dad o | .lor o | .and o | .xor o
  | .jmp o | .jci o | .jlz o | .jez o | .jgz o => freeOfP o
  | .ldx1 _ x _ | .ldx2 _ x _ | .ldx4 _ x _ | .stx1 _ x _ | .stx2 _ x _ | .stx4 _ x _ | .stz _ x _ => x != .literal
  | .rsa _ _ | .rsd _ _ | .rld _ _ | .lsa _ | .lsd _ | .rla _ | .lla _ | .lld _ | .csa _ | .csd _ | .nop _ _ => true
  | .mov _ _ | .cmp _ _ | .mao _ _ | .neg _ _ => true
  | .cls _ _ | .cld _ _ | .prs _ _ | .prd _ _ | .dvd _ | .axd1 _ | .axd2 _ | .axd4 _ | .rtj _ | .jtb _ | .xec _
  | .kal _ | .kaq _ | .kah _ | .imt _ | .amt0 _ _ | .amt2 _ _ | .amt3 _ _ | .amt4 _ _ | .amt5 _ _ | .amt6 _ _
  | .amt7 _ _ | .smm _ | .trn _ | .nrm _ | .tal _ | .sst _ | .lst _ | .xio _ _ _ _ | .internalTest _ | .internalSet _
  | .internalInput _ | .pin _ _ _ => false

/-- `r2` of rule R216: the word after a remote long instruction; zeros stand for the second word of a two-word XIO, which
is not read since the instruction is not admitted. -/
def State.remoteSecondWord (s : State) (m : Addr) (w : Word) : Except Stop Word :=
  if fieldOp w == 0o37#5 then (nextAddress m).bind s.readWord else .ok 0#16

/-- An instruction from its words, or the decoder's refusal, as `LONG_G_STRICT` has it (`30_encoding.md` rule R113). -/
def decoded (w w2 : Word) (c : Parameters := parameters) : Except Stop Instr :=
  match decode w w2 c.longGStrict with
  | .ok i => .ok i
  | .error why => .error (.refusal (.unlisted why))

/-- The remote instruction at `m`. -/
def State.fetchRemote (s : State) (m : Addr) (c : Parameters := parameters) : Except Stop Instr :=
  (s.readWord m).bind fun w => (s.remoteSecondWord m w).bind fun w2 => decoded w w2 c

/-- The `perform` of every instruction but XEC and SMM, which are not chained (rule R216). -/
def performOne (i : Instr) (at_ : Site) (s : State) (c : Parameters := parameters) : Answer :=
  match i with
  | .lda o => performLda o at_ s c
  | .lde o => performLde o at_ s c
  | .ldx1 alt x w2 => performLdx1 alt x w2 at_ s c
  | .ldx2 alt x w2 => performLdx2 alt x w2 at_ s c
  | .ldx4 alt x w2 => performLdx4 alt x w2 at_ s c
  | .dla o => performDla o at_ s c
  | .cls x w2 => performCls x w2 at_ s c
  | .cld x w2 => performCld x w2 at_ s c
  | .prs x w2 => performPrs x w2 at_ s c
  | .prd x w2 => performPrd x w2 at_ s c
  | .sta o => performSta o at_ s c
  | .ste o => performSte o at_ s c
  | .dst o => performDst o at_ s c
  | .stx1 alt x w2 => performStx1 alt x w2 at_ s c
  | .stx2 alt x w2 => performStx2 alt x w2 at_ s c
  | .stx4 alt x w2 => performStx4 alt x w2 at_ s c
  | .stz alt x w2 => performStz alt x w2 at_ s c
  | .add o => performAdd o at_ s c
  | .sub o => performSub o at_ s c
  | .mpy o => performMpy o at_ s c
  | .dad o => performDad o at_ s c
  | .dvd o => performDvd o at_ s c
  | .axd1 d => performAxd1 d at_ s c
  | .axd2 d => performAxd2 d at_ s c
  | .axd4 d => performAxd4 d at_ s c
  | .lor o => performLor o at_ s c
  | .and o => performAnd o at_ s c
  | .xor o => performXor o at_ s c
  | .jmp o => performJmp o at_ s c
  | .jci o => performJci o at_ s c
  | .jlz o => performJlz o at_ s c
  | .jez o => performJez o at_ s c
  | .jgz o => performJgz o at_ s c
  | .rtj o => performRtj o at_ s c
  | .jtb o => performJtb o at_ s c
  | .xec _ => .refused .remoteOutsideAdmittedSet
  | .kal o => performKal o at_ s c
  | .kaq o => performKaq o at_ s c
  | .kah o => performKah o at_ s c
  | .imt o => performImt o at_ s c
  | .amt0 x w2 => performAmt0 x w2 at_ s c
  | .amt2 x w2 => performAmt2 x w2 at_ s c
  | .amt3 x w2 => performAmt3 x w2 at_ s c
  | .amt4 x w2 => performAmt4 x w2 at_ s c
  | .amt5 x w2 => performAmt5 x w2 at_ s c
  | .amt6 x w2 => performAmt6 x w2 at_ s c
  | .amt7 x w2 => performAmt7 x w2 at_ s c
  | .smm _ => .refused .remoteOutsideAdmittedSet
  | .rsa d8 n => performRsa d8 n at_ s
  | .rsd d8 n => performRsd d8 n at_ s
  | .lsa n => performLsa n at_ s c
  | .lsd n => performLsd n at_ s c
  | .rla n => performRla n at_ s
  | .rld d8 n => performRld d8 n at_ s
  | .lla n => performLla n at_ s
  | .lld n => performLld n at_ s
  | .csa n => performCsa n at_ s
  | .csd n => performCsd n at_ s
  | .trn n => performTrn n at_ s c
  | .nrm n => performNrm n at_ s c
  | .tal n => performTal n at_ s c
  | .nop x d8 => performNop x d8 at_ s
  | .sst u => performSst u at_ s c
  | .lst u => performLst u at_ s c
  | .xio f bit8 k ed => performXio f bit8 k ed at_ s c
  | .internalTest src => performInternalTest src at_ s c
  | .internalSet src => performInternalSet src at_ s c
  | .internalInput dst => performInternalInput dst at_ s c
  | .pin x n w2 => performPin x n w2 at_ s c
  | .mov dest source => performMov dest source at_ s c
  | .cmp dest source => performCmp dest source at_ s c
  | .mao dest source => performMao dest source at_ s c
  | .neg dest source => performNeg dest source at_ s c

/-- Performs an instruction at a site XEC or SMM gives it, or at any other, OV by OV_RULE (`41_arithmetic.md` rule R187);
XEC and SMM themselves are not chained (rule R216). -/
def performRemote (i : Instr) (at_ : Site) (s : State) (c : Parameters := parameters) : Answer :=
  withOtherOv i s (performOne i at_ s c) c

/-- Performs the instruction at `m`, if it is in the admitted set, by its own rule at the site of the XEC or SMM: P still
addresses that one, and where the instruction does not jump, execution goes on after that one (rule R216; log 27). -/
def runRemote (m : Addr) (at_ : Site) (s : State) (c : Parameters := parameters) : Answer :=
  withValue (s.fetchRemote m c) fun i =>
    if admitted i then performRemote i at_ s c else .refused .remoteOutsideAdmittedSet

/-- XEC, rule R216: the remote instruction is at m. -/
def performXec (o : Form) (at_ : Site) (s : State) (c : Parameters := parameters) : Answer :=
  withValue (s.effectiveAddress at_ o c) fun m => runRemote m at_ s c

/-- The meaning of XEC. -/
def execXec (o : Form) (s : State) : Answer := performXec o (Site.own o.length s) s parameters

end Sys2Proof.Machine
end

