-- ==== Sys2Proof/Machine/Monitor.lean ====
section
/-! DEFINITION. MONITOR ENTRY, `44_monitor_entry.md`: SMM; and, since SMM is the last of them, every instruction by its
`perform`. -/

namespace Sys2Proof.Machine

/-- The location of SMM's address word, rule R240: location 1 where Y = 1; any other Y is refused (decision D20;
log 28). -/
def smmLocation (w2 : Word) : Except Stop Addr :=
  if w2.setWidth 15 = 1#15 then .ok 1#15 else .error (.refusal .smmSecondWord)

/-- SMM, rule R240: `MM <- 1`, then the instruction the address word points at is performed as by XEC, with the same
admitted set. -/
def performSmm (w2 : Word) (at_ : Site) (s : State) (c : Parameters := parameters) : Answer :=
  withValue (smmLocation w2) fun location =>
    withValue (s.readWord location) fun iw =>
      withValue (addressIn iw c) fun m => runRemote m at_ s.setMonitorMaster c

/-- The meaning of SMM. -/
def execSmm (w2 : Word) (s : State) : Answer := performSmm w2 (Site.own 2 s) s parameters

/-- Performs any instruction at a site, for any parameters: `exec` is this at the instruction's own place, with
`parameters`. -/
def perform (i : Instr) (at_ : Site) (s : State) (c : Parameters := parameters) : Answer :=
  match i with
  | .xec o => withOtherOv (.xec o) s (performXec o at_ s c) c
  | .smm w2 => withOtherOv (.smm w2) s (performSmm w2 at_ s c) c
  | i => performRemote i at_ s c

/-- `exec` with other parameters than the running ones: `execWith specParameters` is the spec's default configuration of
`00_scope.md` rule R8. -/
def execWith (c : Parameters) (i : Instr) (s : State) : Answer := perform i (Site.own i.length s) s c

end Sys2Proof.Machine
end

