-- ==== Sys2Proof/Machine/Dispatch.lean ====
section
/-! DEFINITION. One arm per constructor of `Instr`, each one direct call of the instruction's meaning. -/

namespace Sys2Proof.Machine

def exec (i : Instr) (s : State) : Host.Outcome State Fault Refusal :=
  match i with
  | .lda o => Sys2Proof.Machine.execLda o s
  | .lde o => Sys2Proof.Machine.execLde o s
  | .ldx1 alt x w2 => Sys2Proof.Machine.execLdx1 alt x w2 s
  | .ldx2 alt x w2 => Sys2Proof.Machine.execLdx2 alt x w2 s
  | .ldx4 alt x w2 => Sys2Proof.Machine.execLdx4 alt x w2 s
  | .dla o => Sys2Proof.Machine.execDla o s
  | .cls x w2 => Sys2Proof.Machine.execCls x w2 s
  | .cld x w2 => Sys2Proof.Machine.execCld x w2 s
  | .prs x w2 => Sys2Proof.Machine.execPrs x w2 s
  | .prd x w2 => Sys2Proof.Machine.execPrd x w2 s
  | .sta o => Sys2Proof.Machine.execSta o s
  | .ste o => Sys2Proof.Machine.execSte o s
  | .dst o => Sys2Proof.Machine.execDst o s
  | .stx1 alt x w2 => Sys2Proof.Machine.execStx1 alt x w2 s
  | .stx2 alt x w2 => Sys2Proof.Machine.execStx2 alt x w2 s
  | .stx4 alt x w2 => Sys2Proof.Machine.execStx4 alt x w2 s
  | .stz alt x w2 => Sys2Proof.Machine.execStz alt x w2 s
  | .add o => Sys2Proof.Machine.execAdd o s
  | .sub o => Sys2Proof.Machine.execSub o s
  | .mpy o => Sys2Proof.Machine.execMpy o s
  | .dad o => Sys2Proof.Machine.execDad o s
  | .dvd o => Sys2Proof.Machine.execDvd o s
  | .axd1 d => Sys2Proof.Machine.execAxd1 d s
  | .axd2 d => Sys2Proof.Machine.execAxd2 d s
  | .axd4 d => Sys2Proof.Machine.execAxd4 d s
  | .lor o => Sys2Proof.Machine.execLor o s
  | .and o => Sys2Proof.Machine.execAnd o s
  | .xor o => Sys2Proof.Machine.execXor o s
  | .jmp o => Sys2Proof.Machine.execJmp o s
  | .jci o => Sys2Proof.Machine.execJci o s
  | .jlz o => Sys2Proof.Machine.execJlz o s
  | .jez o => Sys2Proof.Machine.execJez o s
  | .jgz o => Sys2Proof.Machine.execJgz o s
  | .rtj o => Sys2Proof.Machine.execRtj o s
  | .jtb o => Sys2Proof.Machine.execJtb o s
  | .xec o => Sys2Proof.Machine.execXec o s
  | .kal o => Sys2Proof.Machine.execKal o s
  | .kaq o => Sys2Proof.Machine.execKaq o s
  | .kah o => Sys2Proof.Machine.execKah o s
  | .imt o => Sys2Proof.Machine.execImt o s
  | .amt0 x w2 => Sys2Proof.Machine.execAmt0 x w2 s
  | .amt2 x w2 => Sys2Proof.Machine.execAmt2 x w2 s
  | .amt3 x w2 => Sys2Proof.Machine.execAmt3 x w2 s
  | .amt4 x w2 => Sys2Proof.Machine.execAmt4 x w2 s
  | .amt5 x w2 => Sys2Proof.Machine.execAmt5 x w2 s
  | .amt6 x w2 => Sys2Proof.Machine.execAmt6 x w2 s
  | .amt7 x w2 => Sys2Proof.Machine.execAmt7 x w2 s
  | .smm w2 => Sys2Proof.Machine.execSmm w2 s
  | .rsa d8 n => Sys2Proof.Machine.execRsa d8 n s
  | .rsd d8 n => Sys2Proof.Machine.execRsd d8 n s
  | .lsa n => Sys2Proof.Machine.execLsa n s
  | .lsd n => Sys2Proof.Machine.execLsd n s
  | .rla n => Sys2Proof.Machine.execRla n s
  | .rld d8 n => Sys2Proof.Machine.execRld d8 n s
  | .lla n => Sys2Proof.Machine.execLla n s
  | .lld n => Sys2Proof.Machine.execLld n s
  | .csa n => Sys2Proof.Machine.execCsa n s
  | .csd n => Sys2Proof.Machine.execCsd n s
  | .trn n => Sys2Proof.Machine.execTrn n s
  | .nrm n => Sys2Proof.Machine.execNrm n s
  | .tal n => Sys2Proof.Machine.execTal n s
  | .nop x d8 => Sys2Proof.Machine.execNop x d8 s
  | .sst u => Sys2Proof.Machine.execSst u s
  | .lst u => Sys2Proof.Machine.execLst u s
  | .xio f c k ed => Sys2Proof.Machine.execXio f c k ed s
  | .internalTest src => Sys2Proof.Machine.execInternalTest src s
  | .internalSet src => Sys2Proof.Machine.execInternalSet src s
  | .internalInput dst => Sys2Proof.Machine.execInternalInput dst s
  | .pin x n w2 => Sys2Proof.Machine.execPin x n w2 s
  | .mov dest source => Sys2Proof.Machine.execMov dest source s
  | .cmp dest source => Sys2Proof.Machine.execCmp dest source s
  | .mao dest source => Sys2Proof.Machine.execMao dest source s
  | .neg dest source => Sys2Proof.Machine.execNeg dest source s

end Sys2Proof.Machine
end

