-- ==== Sys2Proof/Machine/Fetch.lean ====
section
/-! DEFINITION. Fetching the next instruction (`30_encoding.md` rules R103 and R104), the look at interrupt requests
between instructions (`60_exceptions.md` rule R326), and the placing of an instruction where the fetch takes it. -/

namespace Sys2Proof.Machine

/-- The second word of the instruction at `m` whose first word is `w`; 0 for an instruction of one word. -/
def State.secondWord (s : State) (m : Addr) (w : Word) : Except Stop Word :=
  if isTwoWord w then (nextAddress m).bind s.readWord else .ok 0#16

/-- The instruction at P. -/
def State.fetch (s : State) (c : Parameters := parameters) : Except Stop Instr :=
  (s.readWord s.p).bind fun w => (s.secondWord s.p w).bind fun w2 => decoded w w2 c

/-- Rule R326: an interrupt of a class whose allow flip-flop is 1 is requested at this boundary. -/
def State.interruptArrives (s : State) : Bool :=
  (s.spio && Config.interruptRequest s.draws .scannedProgrammed) ||
    (s.epi && Config.interruptRequest s.draws .externalPriority)

/-- The answer with the step counter moved on. -/
def ticked : Answer → Answer
  | .next s => .next s.tick
  | .fault f => .fault f
  | .refused r => .refused r

/-- One step for any parameters: `stepWith specParameters` is the spec's default configuration of `00_scope.md` rule R8, and
`step` is this with `parameters`. -/
def stepWith (c : Parameters) (s : State) : Answer :=
  if s.interruptArrives then .refused .interruptEntryNotInSource
  else withValue (s.fetch c) fun i => ticked (execWith c i s)

/-- `s` with the two words of an instruction at P and P + 1; a word past the address space is dropped. -/
def State.withWordsAtP (s : State) (words : List Word) : State :=
  match words with
  | [] => s
  | [w] => s.putWord s.p w
  | w :: w2 :: _ => if s.p = 0x7FFF#15 then s.putWord s.p w else (s.putWord s.p w).putWord (s.p + 1#15) w2

end Sys2Proof.Machine
end

