-- ==== Sys2Proof/Machine/Step.lean ====
section
/-! DEFINITION. One step: the interrupt requests are looked at, the instruction at P is fetched and executed, and the step
counter moves on (`20_memory.md` rule R82, `70_reset_and_hazards.md` rule R357). -/

namespace Sys2Proof.Machine

/-- One step of the machine. -/
def step (s : State) : Host.Outcome State Fault Refusal :=
  if s.interruptArrives then .refused .interruptEntryNotInSource
  else withValue (s.fetch parameters) fun i => ticked (exec i s)

/-- `s` with the instruction of these bits (numbered as `spec/opcode_table.json` numbers them) where the next step
fetches it, at P and P + 1. It stands for the launch record's memory image (log 6). -/
def State.withFetchWord (s : State) (nbits w : Nat) : State := s.withWordsAtP (tableWords nbits w)

end Sys2Proof.Machine
end

