-- ==== Sys2Proof/Safety.lean ====
section
/-! DEFINITION. What counts as a safe state and a safe run, and the notions that statements use. -/

namespace Sys2Proof.Machine

/-- An event as `47_input_output.md` rules R282 to R284 build it: the device is an external one, K = 1 performs the
operation, an X = 2 instruction is recorded as Direct, an output function (0 to 3) has a word exactly if performed and
takes none in, an input function (4, 5, 7) the other way round, and function 6 moves no word. -/
def ioEventWf (ev : IoEvent) : Bool :=
  (ev.ed != 0#6) && (!ev.k || ev.performed) && (ev.fn != 2#3 || ev.mode == .direct) &&
    (if ev.fn.toNat < 4 then ev.out.isSome == ev.performed && ev.inp.isNone
      else if ev.fn = 6#3 then ev.out.isNone && ev.inp.isNone
      else ev.inp.isSome == ev.performed && ev.out.isNone)

/-- The invariant: memory is canonical and lists nothing outside the installed words, between 1 and 32768 words are
installed (`20_memory.md` rule R72), and the I/O history holds only events of external XIOs. -/
def State.wellFormed (s : State) : Bool :=
  s.mem.wfBetween 0 (2 * s.memWords) && decide (1 ≤ s.memWords) && decide (s.memWords ≤ addressSpace) &&
    s.io.all ioEventWf

/-- Any of the five flip-flops differ in no way. -/
def sameFlipFlops (s t : State) : Prop :=
  t.ov = s.ov ∧ t.spio = s.spio ∧ t.epi = s.epi ∧ t.mm = s.mm ∧ t.intr = s.intr

/-- A, E, X1, X2 and X4 are the same. -/
def sameRegisters (s t : State) : Prop :=
  t.a = s.a ∧ t.e = s.e ∧ t.x1 = s.x1 ∧ t.x2 = s.x2 ∧ t.x4 = s.x4

/-- Every byte of memory, the number of installed words and the I/O history are the same. -/
def sameStore (s t : State) : Prop :=
  (∀ c, t.byte c = s.byte c) ∧ t.memWords = s.memWords ∧ t.io = s.io

/-- Every byte but those of the word at `m` is the same. -/
def sameBytesBut (m : Addr) (s t : State) : Prop :=
  ∀ c, c ≠ cellOf m → c ≠ cellOf m + 1 → t.byte c = s.byte c

/-- The answer is a next state. -/
def completes (r : Answer) : Prop := ∃ t, r = .next t

/-- `k` steps from `s` meet no fault and no refusal. -/
def safeFor (k : Nat) (s : State) : Prop := ∃ t, Sys2Proof.core.run k s = .next t

-- Encodings, for statements.

/-- `match | X << 8 | D`, a short encoding as the rules of `40_load_store.md` and the later files print it. -/
def shortEncodes (mk : Form → Instr) (pattern : Word) : Prop :=
  ∀ x d, encode (mk (.short x d)) = [pattern ||| (x.toBits.setWidth 16 <<< 8) ||| d.setWidth 16]

/-- `match | X << 8 | G` and the second word, a long encoding as the same rules print it. -/
def longEncodes (mk : Form → Instr) (pattern : Word) : Prop :=
  ∀ x g w2, encode (mk (.long x g w2)) = [pattern ||| (x.toBits.setWidth 16 <<< 8) ||| g.setWidth 16, w2]

/-- `match | X << 8` with bit 4 free, the encoding of LDXn, STXn and STZ. -/
def indexEncodes (mk : Bool → Modifier → Word → Instr) (pattern : Word) : Prop :=
  ∀ alt x w2, encode (mk alt x w2) =
    [pattern ||| (x.toBits.setWidth 16 <<< 8) ||| ((BitVec.ofBool alt).setWidth 16 <<< 3), w2]

/-- A first word the card does not list: `30_encoding.md` rule R121 (a) to (j). -/
def unlistedWord (w : Word) : Bool :=
  let op := fieldOp w
  let x := fieldX w
  let lop := fieldLongOp w
  let g := fieldG w
  let long := op == 0o37#5
  let c := fieldBit8 w
  let k := fieldBit7 w
  (op == 0o32#5) ||
  (op == 0o33#5 && (x == 0#3 || x == 3#3 || x == 4#3 || x == 5#3)) ||
  (op == 0o35#5 && fieldBit6 w) ||
  (long && (lop == 0o32#5 || lop == 0o33#5)) ||
  (long && lop == 0o03#5 && g == 1#3 && x != 4#3) ||
  (long && lop == 0o10#5 && (g == 0#3 || g == 5#3 || g == 7#3)) ||
  (long && lop == 0o11#5 && (g == 0#3 || g == 4#3 || g == 6#3)) ||
  (long && lop == 0o14#5 && (g == 1#3 || g == 2#3 || g == 3#3)) ||
  (long && lop == 0o20#5 && g != 4#3 && g != 6#3) ||
  (long && lop == 0o22#5 && (g == 5#3 || g == 7#3)) ||
  (long && lop == 0o23#5 && (g == 4#3 || g == 6#3)) ||
  (op == 0o36#5 && fieldEd w == 0#6 &&
    (!c || x == 2#3 || x == 6#3 || ((x == 4#3 || x == 5#3 || x == 7#3) && !k)))

/-- A first word whose X = 7 form rule R111 excludes: short X = 7 outside READ1; long X = 7 with READ2, WRITE2 or ADDR. -/
def excludedSevenWord (w : Word) : Bool :=
  let op := fieldOp w
  let lop := fieldLongOp w
  fieldX w == 7#3 &&
  (decide (op.toNat < 0o10) || op == 0o14#5 || op == 0o17#5 || op == 0o20#5 || op == 0o21#5 || op == 0o22#5 ||
    op == 0o23#5 ||
    (op == 0o37#5 &&
      (decide (lop.toNat < 0o10) || lop == 0o14#5 || lop == 0o20#5 || lop == 0o21#5 || decide (0o34 ≤ lop.toNat))))

-- Addresses, for statements.

/-- `30_encoding.md` rule R109: a 16-bit sum below 2^15 is that address; any other lies outside the space. -/
def isAddressOf (v : Word) (r : Except Stop Addr) : Prop :=
  if v.toNat < addressSpace then ∃ m, r = .ok m ∧ m.toNat = v.toNat else r = .error (.fault .outsideSpace)

/-- `n` is `next` for an instruction of `len` words at P, and it is installed (`10_state.md` rule R35). -/
def follows (s : State) (len : Nat) (n : Addr) : Prop := n.toNat = s.p.toNat + len ∧ s.implemented n = true

/-- A skip of an instruction of `len` words at P, taken when memory is that of `s`, lands on `t`: past the one word at
`next`, or past as many as `skipLength` has it, all installed (`43_jump_branch_skip.md` rule R210). -/
def skipsTo (s : State) (len : Nat) (t : Addr) : Prop :=
  ∃ n, follows s len n ∧ t.toNat = n.toNat + skipLength (s.word n) ∧ s.implemented t = true

/-- `m` and `m + 1` are installed words (`20_memory.md` rule R75). -/
def hasDouble (s : State) (m : Addr) : Prop :=
  m ≠ 0x7FFF#15 ∧ s.implemented m = true ∧ s.implemented (m + 1#15) = true

/-- Whether an exact sum lies in the 16-bit two's-complement range. -/
def inRange16 (t : Int) : Bool := decide (-32768 ≤ t ∧ t ≤ 32767)

/-- Whether an exact sum lies in the 32-bit two's-complement range. -/
def inRange32 (t : Int) : Bool := decide (-2147483648 ≤ t ∧ t ≤ 2147483647)

/-- The answer with a change made to its next state. -/
def mapNext (f : State → State) : Answer → Answer
  | .next s => .next (f s)
  | .fault x => .fault x
  | .refused r => .refused r

/-- The instructions that store nothing in memory (`20_memory.md` rule R76): a compare, a jump, a shift, a load, the MOV
family, an XIO that outputs, controls or inputs to A. XEC and SMM are not among them: they do what the remote
instruction does. -/
def storesNothing : Instr → Bool
  | .sta _ | .ste _ | .dst _ | .stx1 _ _ _ | .stx2 _ _ _ | .stx4 _ _ _ | .stz _ _ _ | .rtj _ | .imt _ => false
  | .amt0 _ _ | .amt2 _ _ | .amt3 _ _ | .amt4 _ _ | .amt5 _ _ | .amt6 _ _ | .amt7 _ _ | .xec _ | .smm _ => false
  | .xio (.input dst) _ _ _ | .internalInput dst => dst == .a
  | _ => true

/-- XEC and SMM, which perform another instruction. -/
def performsRemote : Instr → Bool
  | .xec _ | .smm _ => true
  | _ => false

-- Operands and results, for statements.

/-- `v` is the operand of class READ1 that the form has for an instruction at P: `zext(D)` with short X = 7, the second
word with long X = 7, otherwise `M[m]` (`30_encoding.md` rule R111). -/
def isOperand (s : State) (o : Form) (v : Word) : Prop :=
  match o with
  | .short .literal d => v = d.setWidth 16
  | .short x d => ∃ m, s.shortAddress s.p x d = .ok m ∧ s.implemented m = true ∧ s.word m = v
  | .long .literal _ w2 => v = w2
  | .long x _ w2 => ∃ m, s.longAddress x w2 = .ok m ∧ s.implemented m = true ∧ s.word m = v

/-- The instruction adds `k` to the memory word its form locates: IMT (k = 1) and AMTn (k = G = 0, 2 to 7). -/
def addsToMemory (i : Instr) (k : Nat) (o : Form) : Prop :=
  (i = .imt o ∧ k = 1) ∨ ∃ x w2, o = longForm x w2 ∧
    ((i = .amt0 x w2 ∧ k = 0) ∨ (i = .amt2 x w2 ∧ k = 2) ∨ (i = .amt3 x w2 ∧ k = 3) ∨ (i = .amt4 x w2 ∧ k = 4) ∨
      (i = .amt5 x w2 ∧ k = 5) ∨ (i = .amt6 x w2 ∧ k = 6) ∨ (i = .amt7 x w2 ∧ k = 7))

/-- The next state differs from `s` in the word at `m`, which is `w`, in P, which is `n`, and in nothing else. -/
def storesOnly (s : State) (m : Addr) (w : Word) (n : Addr) (t : State) : Prop :=
  t.word m = w ∧ t.p = n ∧ sameBytesBut m s t ∧ sameRegisters s t ∧ sameFlipFlops s t ∧ t.memWords = s.memWords ∧
    t.io = s.io ∧ t.draws = s.draws

/-- Instructions that may change OV: those of `41_arithmetic.md` rule R187's table, Internal Test, AXDn and JTB, whose
flags are "not known" (log 19 and 20), and XEC and SMM, which perform another instruction. -/
def mayChangeOv : Instr → Bool
  | .add _ | .sub _ | .dad _ | .dvd _ | .imt _ | .mao _ _ | .neg _ _ | .internalTest _ => true
  | .axd1 _ | .axd2 _ | .axd4 _ | .jtb _ => true
  | .amt0 _ _ | .amt2 _ _ | .amt3 _ _ | .amt4 _ _ | .amt5 _ _ | .amt6 _ _ | .amt7 _ _ | .xec _ | .smm _ => true
  | _ => false

/-- Instructions that may clear OV: Internal Test (`10_state.md` rule R37), those at whose overflow point rule R187 of
`41_arithmetic.md` draws OV, and XEC and SMM. -/
def mayClearOv : Instr → Bool
  | .dvd _ | .imt _ | .mao _ _ | .neg _ _ | .internalTest _ | .xec _ | .smm _ => true
  | .amt0 _ _ | .amt2 _ _ | .amt3 _ _ | .amt4 _ _ | .amt5 _ _ | .amt6 _ _ | .amt7 _ _ => true
  | _ => false

/-- Instructions that may change SPIO or EPI: Internal Set, and XEC and SMM. -/
def mayChangeAllow : Instr → Bool
  | .internalSet _ | .xec _ | .smm _ => true
  | _ => false

/-- The ten instructions of which the card gives a name and an encoding and the spec no effect, each with the refusal its
meaning answers (`92_eei_decisions.md` D26). -/
def namedOnly : Instr → Option Refusal
  | .cls _ _ => some .clearProtectSingleNotInSource
  | .cld _ _ => some .clearProtectDoubleNotInSource
  | .prs _ _ => some .protectSingleNotInSource
  | .prd _ _ => some .protectDoubleNotInSource
  | .trn _ => some .transposeNotInSource
  | .nrm _ => some .normalizeNotInSource
  | .tal _ => some .tallyNotInSource
  | .sst _ => some .storeStatusNotInSource
  | .lst _ => some .loadStatusNotInSource
  | .pin _ n _ => some (.programmedInstructionNotInSource (piAddress n))
  | _ => none

/-- The word an output or control XIO offers the I/O lines: that of its source; `zext(w[8])` with X = 2; none with X = 6
(`47_input_output.md` rules R276 and R283). -/
def hasOutput (s : State) (f : XioFunction) (c : Bool) (out : Option Word) : Prop :=
  (∃ src w, f = .output src ∧ s.sourceWord src = .ok w ∧ out = some w) ∨
    (f = .outputBit ∧ out = some (if c then 1#16 else 0#16)) ∨ (f = .control ∧ out = none)

/-- Every condition that the Output Data Word tests is zero (`47_input_output.md` rules R286 and R288). -/
def allTestedZero (s : State) (dw : Word) : Prop :=
  (∀ i < 4, dw.getLsbD (4 + i) = true → (Config.senseSwitches s.draws).getLsbD i = false) ∧
    (dw.getLsbD 8 = true → s.ov = false) ∧ (dw.getLsbD 9 = true → s.spio = false) ∧
    (dw.getLsbD 10 = true → s.epi = false)

/-- Instructions that may change X1, X2 or X4: LDXn, AXDn, the MOV family (`10_state.md` rule R32), and XEC and SMM. -/
def mayChangeIndex : Instr → Bool
  | .ldx1 _ _ _ | .ldx2 _ _ _ | .ldx4 _ _ _ | .axd1 _ | .axd2 _ | .axd4 _ | .mov _ _ | .cmp _ _ | .mao _ _ | .neg _ _
  | .xec _ | .smm _ => true
  | _ => false

/-- Instructions that may change E: LDE, DLA, MPY, DAD, DVD, the shifts of AE, the MOV family (`10_state.md` rule R31),
JTB, of whose effect on E nothing is known (log 20), and XEC and SMM. -/
def mayChangeE : Instr → Bool
  | .lde _ | .dla _ | .mpy _ | .dad _ | .dvd _ | .rsd _ _ | .lsd _ | .rld _ _ | .lld _ | .csd _ | .mov _ _ | .cmp _ _
  | .mao _ _ | .neg _ _ | .jtb _ | .xec _ | .smm _ => true
  | _ => false

/-- The first words of an instruction at `m`: `w`, and for one of two words also `w2` after it, all installed. -/
def wordsAt (s : State) (m : Addr) (w w2 : Word) : Prop :=
  s.implemented m = true ∧ s.word m = w ∧
    (isTwoWord w = true → m ≠ 0x7FFF#15 ∧ s.implemented (m + 1#15) = true ∧ s.word (m + 1#15) = w2)

/-- The address word of an SMM whose second word is `w2` is `iw`: Y is 1 and location 1 holds it (`44_monitor_entry.md` rule
R240). -/
def smmAddressWord (s : State) (w2 iw : Word) : Prop :=
  w2.setWidth 15 = 1#15 ∧ s.implemented 1#15 = true ∧ s.word 1#15 = iw

end Sys2Proof.Machine
end

