-- ==== Sys2Proof/Certificates/Slice0/Obligations.lean ====
section
/-! DEFINITION. The statements for the provers. `s` is any state, `o` any form, `n` the address after the instruction
(`follows`), and a next state is written out whole, so that an equation says both that the instruction completes and what
it leaves unchanged. -/

open Sys2Proof Sys2Proof.Machine

-- Encoding.

/-- Decode and encode agree: the words of every well-formed instruction decode to it, whatever follows them
(`30_encoding.md` rules R103 and R114 to R120). -/
def Obligations.DecodeOfEncode : Prop :=
  ∀ (i : Instr) (rest : List Word), i.wellFormed = true → decodeWords (encode i ++ rest) = .ok (i, rest)

/-- No two instructions share words and no bit is dropped: an instruction that was decoded encodes to the words it was
decoded from. -/
def Obligations.EncodeOfDecode : Prop :=
  ∀ (w w2 : Word) (i : Instr), decode w w2 = .ok i → encode i = if isTwoWord w then [w, w2] else [w]

/-- What the decoder answers is well-formed and has the length that its first word tells (`30_encoding.md` R104, whose
length of the two-word XIO forms is the spec's decision D10; log 36). -/
def Obligations.DecodedIsWellFormed : Prop :=
  ∀ (w w2 : Word) (i : Instr), decode w w2 = .ok i →
    i.wellFormed = true ∧ i.length = if isTwoWord w then 2 else 1

/-- The decoder refuses the words of rule R121 (a) to (j) and the X = 7 forms rule R111 excludes, and no other, and no step
executes one (`30_encoding.md` rule R122, the spec's decisions D6 and D8; log 13 and 14). -/
def Obligations.UnlistedWordsAreRefused : Prop :=
  (∀ w w2 : Word, (∃ e, decode w w2 = .error e) ↔ (unlistedWord w || excludedSevenWord w) = true) ∧
  ∀ s : State, (unlistedWord (s.word s.p) || excludedSevenWord (s.word s.p)) = true → ∀ t, step s ≠ .next t

/-- A word of each family, as the examples of the rules print it, decodes to the instruction they say. -/
def Obligations.ExampleWordsDecode : Prop :=
  decode 0o040005#16 0#16 = .ok (.lda (.short .base 5#8)) ∧
  decode 0o174115#16 0o000121#16 = .ok (.lde (.long .base 5#3 0o121#16)) ∧
  decode 0o177503#16 0o000300#16 = .ok (.ldx4 false .literal 0o300#16) ∧
  decode 0o174144#16 0o000500#16 = .ok (.cls .base 0o500#16) ∧
  decode 0o067401#16 0#16 = .ok (.add (.short .literal 1#8)) ∧
  decode 0o154401#16 0#16 = .ok (.axd1 1#8) ∧
  decode 0o147777#16 0#16 = .ok (.xor (.short .literal 0xFF#8)) ∧
  decode 0o000374#16 0#16 = .ok (.jmp (.short .base 0xFC#8)) ∧
  decode 0o174175#16 0o000120#16 = .ok (.amt5 .base 0o120#16) ∧
  decode 0o176031#16 0o000001#16 = .ok (.smm 1#16) ∧
  decode 0o160003#16 0#16 = .ok (.rsa false 3#7) ∧
  decode 0o160000#16 0#16 = .ok (.nop 0#3 false) ∧
  decode 0o157400#16 0#16 = .ok (.sst 0#7) ∧
  decode 0o171303#16 0#16 = .ok (.xio .outputBit true true 3#6) ∧
  decode 0o173700#16 0#16 = .ok (.internalInput .a) ∧
  decode 0o174343#16 0o001000#16 = .ok (.pin .base 3#5 0o1000#16) ∧
  decode 0o164300#16 0#16 = .ok (.mov 3#5 0#3)

-- Addresses and operands.

/-- The long-format modifier table, rows 0 to 6 (`30_encoding.md` R108): bit S of the second word is ignored. That a sum
outside 15 bits stops with `outsideSpace` is a choice (rule R109, decision D3; DESIGN CHOICE, log 11). -/
def Obligations.LongModifierTable : Prop :=
  ∀ (s : State) (w2 : Word), let y : Word := (w2.setWidth 15).setWidth 16
    isAddressOf y (s.longAddress .base w2) ∧
    isAddressOf (s.x1 + y) (s.longAddress .x1 w2) ∧
    isAddressOf (s.x2 + y) (s.longAddress .x2 w2) ∧
    isAddressOf (s.x1 + s.x2 + y) (s.longAddress .x1x2 w2) ∧
    s.longAddress .indirect w2 = s.indirectVia y ∧
    s.longAddress .indirectX1 w2 = s.indirectVia (s.x1 + y) ∧
    isAddressOf (s.x4 + y) (s.longAddress .x4 w2)

/-- The short-format modifier table, rows 0 to 6 (`30_encoding.md` R106), for an instruction at `here`. Rows 0, 2 and 3
add D; rows 1, 4, 5 and 6 all subtract it or all add it, one and the same way in every state: the spec does not settle
which (rule R107, decision D4; DESIGN CHOICE, log 7). That a sum outside 15 bits stops with `outsideSpace` is a choice too
(rule R109, decision D3; DESIGN CHOICE, log 11). -/
def Obligations.ShortModifierTable : Prop :=
  ∃ plus : Bool, ∀ (s : State) (here : Addr) (d : BitVec 8),
    let p : Word := here.setWidth 16
    let k : Word := d.signExtend 16
    let signed (base : Word) : Word := if plus then base + k else base - k
    isAddressOf (p + k) (s.shortAddress here .base d) ∧
    isAddressOf (signed s.x1) (s.shortAddress here .x1 d) ∧
    isAddressOf (s.x2 + k) (s.shortAddress here .x2 d) ∧
    isAddressOf (s.x1 + s.x2 + k) (s.shortAddress here .x1x2 d) ∧
    s.shortAddress here .indirect d = s.indirectVia (signed p) ∧
    s.shortAddress here .indirectX1 d = s.indirectVia (signed s.x1) ∧
    isAddressOf (signed s.x4) (s.shortAddress here .x4 d)

/-- Indirect addressing (`30_encoding.md` R110): one level; the address is bits 15-1 of the address word. That its bit 16 is
ignored is a CHOICE, the value `ignore` of INDIRECT_BIT16 (decision D5; DESIGN CHOICE, log 8, unsafe): the spec's own
configuration takes the same address where the bit is 0 and refuses the word where it is 1. -/
def Obligations.IndirectTakesOneAddressWord : Prop :=
  ∀ (s : State) (a : Addr), s.implemented a = true →
    s.indirectVia (a.setWidth 16) = .ok ((s.word a).setWidth 15) ∧
    ((s.word a).getLsbD 15 = false →
      s.indirectVia (a.setWidth 16) specParameters = .ok ((s.word a).setWidth 15)) ∧
    ((s.word a).getLsbD 15 = true →
      s.indirectVia (a.setWidth 16) specParameters = .error (.refusal .addressWordBit16))

/-- Every instruction of class READ1 reads its operand first and, where the operand cannot be read, stops as the operand
does: where the address stops, or with `absentMemory` where the word is not installed. A store of one word, IMT, AMTn or
RTJ at a location that is not installed stops with `absentMemory` too (`30_encoding.md` R111, `20_memory.md` R72,
decision D3; DESIGN CHOICE, log 12). -/
def Obligations.UnreadableOperandStops : Prop :=
  (∀ (o : Form) (s : State) (e : Stop), s.operandOf (Site.own o.length s) o = .error e →
    exec (.lda o) s = e.answer ∧ exec (.lde o) s = e.answer ∧ exec (.add o) s = e.answer ∧
    exec (.sub o) s = e.answer ∧ exec (.mpy o) s = e.answer ∧ exec (.dvd o) s = e.answer ∧
    exec (.lor o) s = e.answer ∧ exec (.and o) s = e.answer ∧ exec (.xor o) s = e.answer ∧
    exec (.kal o) s = e.answer ∧ exec (.kaq o) s = e.answer ∧ exec (.kah o) s = e.answer) ∧
  (∀ (alt : Bool) (x : Modifier) (w2 : Word) (s : State) (e : Stop),
    s.operandOf (Site.own 2 s) (longForm x w2) = .error e →
    exec (.ldx1 alt x w2) s = e.answer ∧ exec (.ldx2 alt x w2) s = e.answer ∧ exec (.ldx4 alt x w2) s = e.answer) ∧
  (∀ (o : Form) (s : State), o.modifier ≠ .literal →
    (∀ e, s.effectiveAddress (Site.own o.length s) o = .error e → s.operandOf (Site.own o.length s) o = .error e) ∧
    ∀ m, s.effectiveAddress (Site.own o.length s) o = .ok m → s.implemented m = false →
      s.operandOf (Site.own o.length s) o = .error (.fault .absentMemory)) ∧
  (∀ (o : Form) (s : State) (m : Addr), s.locationOf (Site.own o.length s) o = .ok m → s.implemented m = false →
    ∀ i : Instr, i = .sta o ∨ i = .ste o ∨ (∃ k, addsToMemory i k o) ∨
      (∃ alt x w2, o = longForm x w2 ∧
        (i = .stx1 alt x w2 ∨ i = .stx2 alt x w2 ∨ i = .stx4 alt x w2 ∨ i = .stz alt x w2)) →
      exec i s = .fault .absentMemory) ∧
  ∀ (o : Form) (s : State) (m : Addr), s.effectiveAddress (Site.own o.length s) o = .ok m → s.implemented m = false →
    m ≠ 0x7FFF#15 → s.p.toNat + o.length < addressSpace → exec (.rtj o) s = .fault .absentMemory

/-- X = 7 where rule R111 of `30_encoding.md` does not admit it (decision D6, log 13): a short X = 7 has no location, and
no X = 7 has an address or a double word. -/
def Obligations.ExcludedLiteralFormsStop : Prop :=
  ∀ (s : State) (d : BitVec 8) (g : BitVec 3) (w2 : Word),
    (∀ o : Form, o = .short .literal d ∨ o = .long .literal g w2 → ∀ i : Instr,
      i = .dla o ∨ i = .dad o ∨ i = .dst o ∨ i = .jmp o ∨ i = .jci o ∨ i = .jlz o ∨ i = .jez o ∨ i = .jgz o ∨
        i = .rtj o ∨ i = .jtb o ∨ i = .xec o → exec i s = .refused .excludedLiteral) ∧
    ∀ i : Instr, i = .sta (.short .literal d) ∨ i = .ste (.short .literal d) ∨ i = .imt (.short .literal d) →
      exec i s = .refused .excludedLiteral

/-- The register codes (`10_state.md` R36): what each reads, and the codes the load and store rows use. Code 0 reads as
zeros and cannot be written: a DEST reaches X1, X2, X4, A and E only, and a load with designator 0 is no instruction. -/
def Obligations.RegisterCodes : Prop :=
  (∀ s : State, s.reg 0#3 = 0#16 ∧ s.reg 1#3 = s.x1 ∧ s.reg 2#3 = s.x2 ∧ s.reg 3#3 = s.x4 ∧ s.reg 4#3 = s.a ∧
    s.reg 6#3 = s.a ∧ s.reg 5#3 = s.e ∧ s.reg 7#3 = s.e) ∧
  (∀ (s : State) (dest : BitVec 5) (r : Word), ∃ a' e' x1' x2' x4', s.writeDest dest r =
    { s with a := a', e := e', x1 := x1', x2 := x2', x4 := x4' } ∧ (s.writeDest dest r).reg 0#3 = 0#16) ∧
  (∀ w w2 : Word, fieldOp w = 0o37#5 → fieldLongOp w = 0o10#5 ∨ fieldLongOp w = 0o11#5 → fieldG w = 0#3 →
    decode w w2 = .error .designator) ∧
  ∀ (x : Modifier) (g : BitVec 3) (w2 : Word) (alt : Bool),
    ((Instr.lda (.long x g w2)).wellFormed = true ↔ g = 4#3 ∨ g = 6#3) ∧
    ((Instr.lde (.long x g w2)).wellFormed = true ↔ g = 5#3 ∨ g = 7#3) ∧
    ((Instr.sta (.long x g w2)).wellFormed = true ↔ g = 4#3 ∨ g = 6#3) ∧
    ((Instr.ste (.long x g w2)).wellFormed = true ↔ g = 5#3 ∨ g = 7#3) ∧
    encode (.ldx1 alt x w2) = [longWord x.toBits (loadIndexOp alt) 1#3, w2] ∧
    encode (.ldx2 alt x w2) = [longWord x.toBits (loadIndexOp alt) 2#3, w2] ∧
    encode (.ldx4 alt x w2) = [longWord x.toBits (loadIndexOp alt) 3#3, w2] ∧
    encode (.stx1 alt x w2) = [longWord x.toBits (storeIndexOp alt) 1#3, w2] ∧
    encode (.stx2 alt x w2) = [longWord x.toBits (storeIndexOp alt) 2#3, w2] ∧
    encode (.stx4 alt x w2) = [longWord x.toBits (storeIndexOp alt) 3#3, w2] ∧
    encode (.stz alt x w2) = [longWord x.toBits (storeIndexOp alt) 0#3, w2]

/-- A double word is the word at m and the word at m + 1, and a word access sees the half that a double access put there
(`20_memory.md` R73). That the half at the lower address is the more significant one is a CHOICE (`10_state.md` R33,
decision D12; DESIGN CHOICE, unsafe, log 36). -/
def Obligations.DoubleWordHighHalfFirst : Prop :=
  ∀ (s : State) (m : Addr), hasDouble s m →
    s.readDouble m = .ok (s.word m ++ s.word (m + 1#15)) ∧
    (s.wellFormed = true → ∀ hi lo : Word, ∃ t, s.writeDouble m hi lo = .ok t ∧ t.word m = hi ∧
      t.word (m + 1#15) = lo ∧ t.readDouble m = .ok (hi ++ lo))

-- Load and store.

/-- LDA and LDE (`40_load_store.md` R150 and R151): A, or E, is the operand; nothing else but P changes; where the operand
cannot be read they stop as it does. -/
def Obligations.LdaAndLdeLoadTheOperand : Prop :=
  shortEncodes .lda 0x4000#16 ∧ longEncodes .lda 0xF840#16 ∧ shortEncodes .lde 0x4800#16 ∧ longEncodes .lde 0xF848#16 ∧
  (∀ x g w2, ((Instr.lda (.long x g w2)).wellFormed = true ↔ g = 4#3 ∨ g = 6#3) ∧
    ((Instr.lde (.long x g w2)).wellFormed = true ↔ g = 5#3 ∨ g = 7#3)) ∧
  (∀ (o : Form) (s : State) (v : Word) (n : Addr), isOperand s o v → follows s o.length n →
    exec (.lda o) s = .next { s with a := v, p := n } ∧ exec (.lde o) s = .next { s with e := v, p := n }) ∧
  ∀ (o : Form) (s : State) (e : Stop), s.operandOf (Site.own o.length s) o = .error e →
    exec (.lda o) s = e.answer ∧ exec (.lde o) s = e.answer

/-- LDXn (`40_load_store.md` R152): the index register of G is the operand, the same for both operation codes; nothing
else but P changes. -/
def Obligations.LdxLoadsAnIndexRegister : Prop :=
  indexEncodes .ldx1 0xF841#16 ∧ indexEncodes .ldx2 0xF842#16 ∧ indexEncodes .ldx4 0xF843#16 ∧
  ∀ (alt : Bool) (x : Modifier) (w2 : Word) (s : State) (v : Word) (n : Addr),
    isOperand s (longForm x w2) v → follows s 2 n →
    exec (.ldx1 alt x w2) s = .next { s with x1 := v, p := n } ∧
    exec (.ldx2 alt x w2) s = .next { s with x2 := v, p := n } ∧
    exec (.ldx4 alt x w2) s = .next { s with x4 := v, p := n }

/-- DLA (`40_load_store.md` R153): A is the word at m and E the word at m + 1; it stops where m or m + 1 is no installed
word (decision D3; DESIGN CHOICE, log 11 and 12) and with X = 7 (decision D6; DESIGN CHOICE, log 13). -/
def Obligations.DlaLoadsADoubleWord : Prop :=
  shortEncodes .dla 0x6000#16 ∧ longEncodes .dla 0xF860#16 ∧
  (∀ x g w2, (Instr.dla (.long x g w2)).wellFormed = true ↔ g = 0#3 ∧ x ≠ .literal) ∧
  (∀ (o : Form) (s : State) (m : Addr), s.effectiveAddress (Site.own o.length s) o = .ok m →
    (∀ n, hasDouble s m → follows s o.length n →
      exec (.dla o) s = .next { s with a := s.word m, e := s.word (m + 1#15), p := n }) ∧
    (¬ hasDouble s m → ∃ f, exec (.dla o) s = .fault f)) ∧
  ∀ (s : State) (d : BitVec 8) (g : BitVec 3) (w2 : Word),
    exec (.dla (.short .literal d)) s = .refused .excludedLiteral ∧
    exec (.dla (.long .literal g w2)) s = .refused .excludedLiteral

/-- STA and STE (`40_load_store.md` R158 and R159): the word at the location is A, or E; no other byte and no register
changes; long X = 7 stores into the instruction's own second word, and short X = 7 is refused (decision D6; DESIGN
CHOICE, log 13). -/
def Obligations.StaAndSteStoreOneWord : Prop :=
  shortEncodes .sta 0x9000#16 ∧ longEncodes .sta 0xF890#16 ∧ shortEncodes .ste 0x9800#16 ∧ longEncodes .ste 0xF898#16 ∧
  (∀ x g w2, ((Instr.sta (.long x g w2)).wellFormed = true ↔ g = 4#3 ∨ g = 6#3) ∧
    ((Instr.ste (.long x g w2)).wellFormed = true ↔ g = 5#3 ∨ g = 7#3)) ∧
  (∀ (o : Form) (s : State) (m n : Addr), s.wellFormed = true → s.locationOf (Site.own o.length s) o = .ok m →
    s.implemented m = true → follows s o.length n →
    (∃ t, exec (.sta o) s = .next t ∧ storesOnly s m s.a n t) ∧ ∃ t, exec (.ste o) s = .next t ∧ storesOnly s m s.e n t) ∧
  (∀ (s : State) (g : BitVec 3) (w2 : Word), s.p ≠ 0x7FFF#15 →
    s.locationOf (Site.own 2 s) (.long .literal g w2) = .ok (s.p + 1#15)) ∧
  ∀ (s : State) (d : BitVec 8), exec (.sta (.short .literal d)) s = .refused .excludedLiteral ∧
    exec (.ste (.short .literal d)) s = .refused .excludedLiteral

/-- DST (`40_load_store.md` R160): the words at m and m + 1 are A and E; no other byte and no register changes; it stops
where m or m + 1 is no installed word (decision D3; DESIGN CHOICE, log 11 and 12) and with X = 7 (decision D6; DESIGN
CHOICE, log 13). -/
def Obligations.DstStoresADoubleWord : Prop :=
  shortEncodes .dst 0x8000#16 ∧ longEncodes .dst 0xF880#16 ∧
  (∀ x g w2, (Instr.dst (.long x g w2)).wellFormed = true ↔ (g = 4#3 ∨ g = 6#3) ∧ x ≠ .literal) ∧
  (∀ (o : Form) (s : State) (m : Addr), s.effectiveAddress (Site.own o.length s) o = .ok m →
    (∀ n, s.wellFormed = true → hasDouble s m → follows s o.length n → ∃ t, exec (.dst o) s = .next t ∧
      t.word m = s.a ∧ t.word (m + 1#15) = s.e ∧ t.p = n ∧
      (∀ c, c ≠ cellOf m → c ≠ cellOf m + 1 → c ≠ cellOf (m + 1#15) → c ≠ cellOf (m + 1#15) + 1 →
        t.byte c = s.byte c) ∧
      sameRegisters s t ∧ sameFlipFlops s t ∧ t.memWords = s.memWords ∧ t.io = s.io ∧ t.draws = s.draws) ∧
    (¬ hasDouble s m → ∃ f, exec (.dst o) s = .fault f)) ∧
  ∀ (s : State) (d : BitVec 8) (g : BitVec 3) (w2 : Word),
    exec (.dst (.short .literal d)) s = .refused .excludedLiteral ∧
    exec (.dst (.long .literal g w2)) s = .refused .excludedLiteral

/-- STXn and STZ (`40_load_store.md` R161 and R162): the word at the location is the index register of G, or 0, the same for
both operation codes; no other byte and no register changes. -/
def Obligations.StxAndStzStoreOneWord : Prop :=
  indexEncodes .stx1 0xF891#16 ∧ indexEncodes .stx2 0xF892#16 ∧ indexEncodes .stx4 0xF893#16 ∧ indexEncodes .stz 0xF890#16 ∧
  ∀ (alt : Bool) (x : Modifier) (w2 : Word) (s : State) (m n : Addr), s.wellFormed = true →
    s.locationOf (Site.own 2 s) (longForm x w2) = .ok m → s.implemented m = true → follows s 2 n →
    (∃ t, exec (.stx1 alt x w2) s = .next t ∧ storesOnly s m s.x1 n t) ∧
    (∃ t, exec (.stx2 alt x w2) s = .next t ∧ storesOnly s m s.x2 n t) ∧
    (∃ t, exec (.stx4 alt x w2) s = .next t ∧ storesOnly s m s.x4 n t) ∧
    ∃ t, exec (.stz alt x w2) s = .next t ∧ storesOnly s m 0#16 n t

/-- CLS, CLD, PRS, PRD, TRN, NRM, TAL, SST, LST and PIn have a name, an encoding and no effect in the spec, and every one
of them stops, each under its own name (decision D26; log 35). PIn says its PI address, N + 40 octal (`48_miscellaneous.md`
R300, `20_memory.md` R79). -/
def Obligations.NamedOnlyInstructionsStop : Prop :=
  (∀ (i : Instr) (r : Refusal) (s : State), namedOnly i = some r → exec i s = .refused r) ∧
  ∀ (x : Modifier) (n : BitVec 5) (w2 : Word) (s : State), ∃ address : Addr, address.toNat = 0o40 + n.toNat ∧
    exec (.pin x n w2) s = .refused (.programmedInstructionNotInSource address)

-- Arithmetic.

/-- ADD and SUB (`41_arithmetic.md` R180 and R181): the sum or difference modulo 2^16; OV is set where the exact result is
out of range and otherwise kept (rules R186 and R187, decision D14; log 15 and 16). -/
def Obligations.AddAndSubSetOvOnOverflow : Prop :=
  ∀ (o : Form) (s : State) (v : Word) (n : Addr), isOperand s o v → follows s o.length n →
    exec (.add o) s =
      .next { s with a := s.a + v, ov := s.ov || !inRange16 (s.a.toInt + v.toInt), p := n } ∧
    exec (.sub o) s =
      .next { s with a := s.a - v, ov := s.ov || !inRange16 (s.a.toInt - v.toInt), p := n }

/-- MPY (`41_arithmetic.md` R182): AE is the exact signed product (a CHOICE: rule R188, decision D15; DESIGN CHOICE, log 17),
A its high half (`10_state.md` R33, decision D12; DESIGN CHOICE, log 36); the old E takes no part, and OV is kept (rule R187,
decision D14; PRESUMED, log 15). -/
def Obligations.MpyGivesTheExactProduct : Prop :=
  ∀ (o : Form) (s : State) (v : Word) (n : Addr), isOperand s o v → follows s o.length n →
    ∃ hi lo : Word, exec (.mpy o) s = .next { s with a := hi, e := lo, p := n } ∧
      (hi ++ lo).toInt = s.a.toInt * v.toInt

/-- DAD (`41_arithmetic.md` R183): AE plus the double word modulo 2^32; OV is set where the exact sum is out of range and
otherwise kept (decisions D12 and D14; log 15, 16 and 36). -/
def Obligations.DadAddsDoubleWords : Prop :=
  ∀ (o : Form) (s : State) (m n : Addr), s.effectiveAddress (Site.own o.length s) o = .ok m → hasDouble s m →
    follows s o.length n →
    let ae : DWord := s.a ++ s.e
    let v : DWord := s.word m ++ s.word (m + 1#15)
    exec (.dad o) s = .next { s with
      a := (ae + v).extractLsb' 16 16, e := (ae + v).extractLsb' 0 16,
      ov := s.ov || !inRange32 (ae.toInt + v.toInt), p := n }

/-- DVD (`41_arithmetic.md` R184 and R189, decision D16; log 18): where the divisor is not 0 and the truncated quotient
fits 16 bits, E is the quotient, A the remainder, and DVD skips; otherwise it does not skip, and A, E and OV may hold
anything. The format of quotient and remainder is a CHOICE (D16; DESIGN CHOICE, log 18), and so is that A is the high half of
AE (`10_state.md` R33, decision D12; DESIGN CHOICE, log 36). -/
def Obligations.DvdDividesOrReportsOverflow : Prop :=
  ∀ (o : Form) (s : State) (v : Word), isOperand s o v →
    let dividend : Int := (s.a ++ s.e).toInt
    let q : Int := dividend.tdiv v.toInt
    (v ≠ 0#16 → inRange16 q = true → ∀ t, skipsTo s o.length t →
      ∃ r' q' : Word, exec (.dvd o) s = .next { s with a := r', e := q', p := t } ∧
        q'.toInt = q ∧ r'.toInt = dividend - q * v.toInt) ∧
    ((v = 0#16 ∨ inRange16 q = false) → ∀ n, follows s o.length n →
      ∃ (a' e' : Word) (ov' : Bool), exec (.dvd o) s = .next { s with a := a', e := e', ov := ov', p := n })

/-- DVD undoes MPY: multiplying A by a number that is not 0 and dividing by it leaves the old A in E, remainder 0, and
skips (the spec's MPY_FN and DVD_FN, `41_arithmetic.md` R188 and R189, decisions D15 and D16; DESIGN CHOICE, log 17 and 18). -/
def Obligations.DvdUndoesMpy : Prop :=
  ∀ (s : State) (v : Word) (g g' : BitVec 3) (n q : Addr), v ≠ 0#16 → follows s 2 n →
    skipsTo { s with p := n } 2 q →
    ∃ t u, exec (.mpy (.long .literal g v)) s = .next t ∧ exec (.dvd (.long .literal g' v)) t = .next u ∧
      u.e = s.a ∧ u.a = 0#16 ∧ u.p = q

/-- AXDn (`41_arithmetic.md` R185): the index register takes D, sign-extended; the spec states no next P and no flags, so P may
be anything and OV may be set, but not cleared (`10_state.md` R37; DESIGN CHOICE, log 19); nothing else changes. That it goes
on whether or not the word at P + 1 is installed is a CHOICE too (`91_not_in_source.md` N21; DESIGN CHOICE, unsafe, log 19). -/
def Obligations.AxdAugmentsAnIndexRegister : Prop :=
  ∀ (d : BitVec 8) (s : State), ∃ (p' : Addr) (ov' : Bool), (s.ov = true → ov' = true) ∧
    exec (.axd1 d) s = .next { s with x1 := s.x1 + d.signExtend 16, p := p', ov := ov' } ∧
    exec (.axd2 d) s = .next { s with x2 := s.x2 + d.signExtend 16, p := p', ov := ov' } ∧
    exec (.axd4 d) s = .next { s with x4 := s.x4 + d.signExtend 16, p := p', ov := ov' }

-- Logical.

/-- LOR, AND, XOR (`42_logical.md` R200 to R202): A is E combined with the operand (the card's suspect reading, decision
D40; DESIGN CHOICE, log 24), XOR as its name has it (conflict C2), which is the sum of the two products with their bars;
the old A takes no part, E and every flip-flop are kept. -/
def Obligations.LogicalsCombineEAndOperand : Prop :=
  shortEncodes .lor 0x5000#16 ∧ longEncodes .lor 0xF850#16 ∧ shortEncodes .and 0x5800#16 ∧ longEncodes .and 0xF858#16 ∧
  shortEncodes .xor 0xC800#16 ∧ longEncodes .xor 0xF8C8#16 ∧
  ∀ (o : Form) (s : State) (v : Word) (n : Addr), isOperand s o v → follows s o.length n →
    exec (.lor o) s = .next { s with a := s.e ||| v, p := n } ∧
    exec (.and o) s = .next { s with a := s.e &&& v, p := n } ∧
    exec (.xor o) s = .next { s with a := s.e ^^^ v, p := n } ∧
    exec (.xor o) s = .next { s with a := (~~~s.e &&& v) ||| (s.e &&& ~~~v), p := n }

-- Jumps.

/-- JMP (`43_jump_branch_skip.md` R211): P is m and nothing else changes; any G is admitted (decision D7; DESIGN CHOICE,
log 9); X = 7 is excluded (decision D6; log 13); the word 0 jumps to itself; a target that is not installed stops the
next step (decisions D3 and D11; log 12). -/
def Obligations.JmpSetsP : Prop :=
  shortEncodes .jmp 0x0000#16 ∧ longEncodes .jmp 0xF800#16 ∧
  (∀ (o : Form) (s : State) (m : Addr), s.effectiveAddress (Site.own o.length s) o = .ok m →
    exec (.jmp o) s = .next { s with p := m }) ∧
  (∀ o : Form, (Instr.jmp o).wellFormed = true ↔ o.modifier ≠ .literal) ∧
  (encode (.jmp (.short .base 0#8)) = [0#16] ∧ ∀ s : State, exec (.jmp (.short .base 0#8)) s = .next s) ∧
  ∀ s t : State, s.implemented s.p = false → step s ≠ .next t

/-- JCI (`43_jump_branch_skip.md` R212, decision D29; log 29): INTR is cleared, P is m; SPIO, EPI, MM and everything else
are kept. -/
def Obligations.JciClearsIntrAndJumps : Prop :=
  ∀ (o : Form) (s : State) (m : Addr), s.effectiveAddress (Site.own o.length s) o = .ok m →
    exec (.jci o) s = .next { s with intr := false, p := m }

/-- JLZ, JEZ, JGZ (`43_jump_branch_skip.md` R213 to R215): they jump to m if bit 16 of A is 1, if A is 0, if bit 16 of A is
0 and A is not 0; otherwise they advance; an address that cannot be formed stops them either way (R213 says it of JLZ;
DEDUCED for the other two, log 40). -/
def Obligations.ConditionalJumpsTestA : Prop :=
  shortEncodes .jlz 0x3800#16 ∧ longEncodes .jlz 0xF838#16 ∧ shortEncodes .jez 0x3000#16 ∧
  longEncodes .jez 0xF830#16 ∧ shortEncodes .jgz 0x2800#16 ∧ longEncodes .jgz 0xF828#16 ∧
  (∀ (o : Form) (s : State) (m : Addr), s.effectiveAddress (Site.own o.length s) o = .ok m →
    (s.a.getLsbD 15 = true → exec (.jlz o) s = .next { s with p := m }) ∧
    (s.a = 0#16 → exec (.jez o) s = .next { s with p := m }) ∧
    (s.a.getLsbD 15 = false ∧ s.a ≠ 0#16 → exec (.jgz o) s = .next { s with p := m }) ∧
    ∀ n, follows s o.length n →
      (s.a.getLsbD 15 = false → exec (.jlz o) s = .next { s with p := n }) ∧
      (s.a ≠ 0#16 → exec (.jez o) s = .next { s with p := n }) ∧
      (s.a.getLsbD 15 = true ∨ s.a = 0#16 → exec (.jgz o) s = .next { s with p := n })) ∧
  ∀ (o : Form) (s : State) (e : Stop), s.effectiveAddress (Site.own o.length s) o = .error e →
    exec (.jlz o) s = e.answer ∧ exec (.jez o) s = e.answer ∧ exec (.jgz o) s = e.answer

/-- RTJ (`43_jump_branch_skip.md` R223): the word at m is `next`, zero-extended (decision D18; log 36), whether or not
`next` is installed, P is m + 1, and no other byte and no register changes; it stops where m + 1 leaves the address space
(decision D3; log 11). -/
def Obligations.RtjStoresTheReturnAddress : Prop :=
  ∀ (o : Form) (s : State) (m n : Addr), s.effectiveAddress (Site.own o.length s) o = .ok m →
    n.toNat = s.p.toNat + o.length →
    (s.wellFormed = true → s.implemented m = true → m ≠ 0x7FFF#15 →
      ∃ t, exec (.rtj o) s = .next t ∧ storesOnly s m (n.setWidth 16) (m + 1#15) t) ∧
    (m = 0x7FFF#15 → exec (.rtj o) s = .fault .outsideSpace)

/-- A routine returns with an indirect jump through its first word (`43_jump_branch_skip.md` R223): after RTJ to m, `JMP.L
X = 4 Y = m` leads back to the word after the RTJ (bit 16 of the stored word being 0: decision D18; log 36). -/
def Obligations.IndirectJumpReturnsFromRtj : Prop :=
  ∀ (o : Form) (s : State) (m n : Addr) (g : BitVec 3), s.wellFormed = true →
    s.effectiveAddress (Site.own o.length s) o = .ok m → s.implemented m = true → m ≠ 0x7FFF#15 →
    n.toNat = s.p.toNat + o.length →
    ∃ t, exec (.rtj o) s = .next t ∧
      exec (.jmp (.long .indirect g (m.setWidth 16))) t = .next { t with p := n }

/-- JTB (`43_jump_branch_skip.md` R222): it completes wherever location m + k is installed, k being the count generated,
which the spec does not define: the free value `Config.drawCount s.draws`. The sum is taken modulo the address space. The
new P is bits 15-1 of that word, the rule's candidate reading; what A, E and OV become is open, but OV is not cleared
(`10_state.md` R37); nothing else changes (DESIGN CHOICE, log 20). -/
def Obligations.JtbJumpsThroughATable : Prop :=
  ∀ (o : Form) (s : State) (m : Addr), s.effectiveAddress (Site.own o.length s) o = .ok m →
    s.implemented (m + Config.drawCount s.draws) = true →
    let entry : Word := s.word (m + Config.drawCount s.draws)
    ∃ (a' e' : Word) (ov' : Bool),
      exec (.jtb o) s = .next { s with a := a', e := e', ov := ov', p := entry.setWidth 15 } ∧ (s.ov = true → ov' = true)

-- Skips.

/-- The skip distance (`43_jump_branch_skip.md` R210, decision D9; DESIGN CHOICE, log 10): one word over a one-word
instruction; over a two-word instruction always one word or always two. -/
def Obligations.SkipPassesOneInstructionOrOneWord : Prop :=
  (∀ w : Word, isTwoWord w = false → skipLength w = 1) ∧
  ((∀ w : Word, isTwoWord w = true → skipLength w = 1) ∨ ∀ w : Word, isTwoWord w = true → skipLength w = 2)

/-- KAL, KAQ, KAH (`43_jump_branch_skip.md` R217 to R219): they skip if A is lower than, equal to, higher than the operand,
as signed numbers (rule R224, decision D13; log 26), otherwise advance; nothing but P changes. -/
def Obligations.ComparesSkip : Prop :=
  ∀ (o : Form) (s : State) (v : Word), isOperand s o v →
    (∀ t, skipsTo s o.length t →
      (s.a.toInt < v.toInt → exec (.kal o) s = .next { s with p := t }) ∧
      (s.a = v → exec (.kaq o) s = .next { s with p := t }) ∧
      (v.toInt < s.a.toInt → exec (.kah o) s = .next { s with p := t })) ∧
    ∀ n, follows s o.length n →
      (v.toInt ≤ s.a.toInt → exec (.kal o) s = .next { s with p := n }) ∧
      (s.a ≠ v → exec (.kaq o) s = .next { s with p := n }) ∧
      (s.a.toInt ≤ v.toInt → exec (.kah o) s = .next { s with p := n })

/-- IMT and AMTn (`43_jump_branch_skip.md` R220 and R221): the word at the location takes 1, or G as 0 to 7 (decision D17;
log 36); they skip if the result is 0 or its sign differs from the old word's; OV is kept unless the signed sum
overflows (rule R187; log 15); no other byte and no register changes. -/
def Obligations.AddToMemorySkipsOnZeroOrSignChange : Prop :=
  ∀ (i : Instr) (k : Nat) (o : Form) (s : State) (m : Addr), addsToMemory i k o → s.wellFormed = true →
    s.locationOf (Site.own o.length s) o = .ok m → s.implemented m = true →
    let old : Word := s.word m
    let r : Word := old + BitVec.ofNat 16 k
    ∀ q : Addr,
      ((r = 0#16 ∨ r.getLsbD 15 ≠ old.getLsbD 15) ∧ skipsTo (s.putWord m r) o.length q ∨
        (r ≠ 0#16 ∧ r.getLsbD 15 = old.getLsbD 15) ∧ follows s o.length q) →
      ∃ t, exec i s = .next t ∧ t.word m = r ∧ t.p = q ∧ (inRange16 (old.toInt + k) = true → t.ov = s.ov) ∧
        sameBytesBut m s t ∧ sameRegisters s t ∧ sameFlipFlops s { t with ov := s.ov } ∧
        t.memWords = s.memWords ∧ t.io = s.io ∧ t.draws = s.draws

-- Execute and monitor entry.

/-- XEC (`43_jump_branch_skip.md` R216, decision D19; log 27): a remote instruction of the admitted set is performed as its
own rule says for an instruction at the address of XEC, with XEC's own `next`; whatever P a remote instruction is taken to
see makes no difference. Every other remote instruction, XEC and SMM among them, is refused. -/
def Obligations.XecPerformsTheRemoteInstruction : Prop :=
  (∀ (o : Form) (s : State) (m : Addr) (w w2 : Word) (i : Instr),
    s.effectiveAddress (Site.own o.length s) o = .ok m → wordsAt s m w w2 → decode w w2 = .ok i →
    (admitted i = true → exec (.xec o) s = performRemote i ⟨s.p, s.p.toNat + o.length⟩ s) ∧
    (admitted i = false → exec (.xec o) s = .refused .remoteOutsideAdmittedSet)) ∧
  (∀ (i : Instr) (here : Addr) (next : Nat) (s : State), admitted i = true →
    performRemote i ⟨here, next⟩ s = performRemote i ⟨s.p, next⟩ s) ∧
  ∀ (i : Instr) (s : State), performsRemote i = false → performRemote i (Site.own i.length s) s = exec i s

/-- XEC completes (`43_jump_branch_skip.md` R216, decision D19, whose reading of "execute remotely" is DESIGN CHOICE, log 27):
a remote immediate ADD (OV by OV_RULE, `41_arithmetic.md` R187, decision D14; PRESUMED, log 15 and 16), MOV to A (which DEST
bit is A by the map `shifted`, `48_miscellaneous.md` R302, decision D24; DESIGN CHOICE, log 25) or logical left shift of A
(its meaning taken from its name, `45_shift.md` R253, decision D21; PRESUMED, log 22) has its effect and execution goes on
after XEC; a remote absolute JMP jumps. -/
def Obligations.XecCompletes : Prop :=
  ∀ (o : Form) (s : State) (m : Addr) (w w2 : Word), s.effectiveAddress (Site.own o.length s) o = .ok m →
    wordsAt s m w w2 →
    (∀ n, follows s o.length n →
      (∀ d, decode w w2 = .ok (.add (.short .literal d)) → exec (.xec o) s = .next { s with
        a := s.a + d.setWidth 16, ov := s.ov || !inRange16 (s.a.toInt + d.toNat), p := n }) ∧
      (∀ source, decode w w2 = .ok (.mov 0b00010#5 source) → exec (.xec o) s = .next { s with
        a := s.reg source, p := n }) ∧
      ∀ k, decode w w2 = .ok (.lla k) → exec (.xec o) s = .next { s with
        a := s.a <<< k.toNat, p := n }) ∧
    ∀ g y, decode w w2 = .ok (.jmp (.long .base g y)) → exec (.xec o) s = .next { s with p := y.setWidth 15 }

/-- SMM (`44_monitor_entry.md` R240, decisions D20 and D30; log 28): where Y is 1, MM is set, then the instruction that the
address word in location 1 points at (its bit 16 ignored: decision D5; DESIGN CHOICE, log 8) is performed as XEC does, with
the same admitted set (the reading of "execute remotely", `43_jump_branch_skip.md` R216, decision D19; DESIGN CHOICE, log
27); so a remote absolute JMP jumps, and a remote MOV to A (DEST by the map `shifted`, `48_miscellaneous.md` R302, decision
D24; DESIGN CHOICE, log 25) loads A. Any other Y is refused. -/
def Obligations.SmmSetsMonitorMasterAndExecutes : Prop :=
  (∀ (s : State) (w2 iw w r : Word), smmAddressWord s w2 iw → wordsAt s (iw.setWidth 15) w r →
    (∀ i, decode w r = .ok i →
      (admitted i = true → exec (.smm w2) s = performRemote i ⟨s.p, s.p.toNat + 2⟩ { s with mm := true }) ∧
      (admitted i = false → exec (.smm w2) s = .refused .remoteOutsideAdmittedSet)) ∧
    (∀ g y, decode w r = .ok (.jmp (.long .base g y)) →
      exec (.smm w2) s = .next { s with mm := true, p := y.setWidth 15 }) ∧
    ∀ n source, follows s 2 n → decode w r = .ok (.mov 0b00010#5 source) →
      exec (.smm w2) s = .next { s with mm := true, a := s.reg source, p := n }) ∧
  ∀ (s : State) (w2 : Word), w2.setWidth 15 ≠ 1#15 → exec (.smm w2) s = .refused .smmSecondWord

-- Shifts.

/-- RSA and RSD (`45_shift.md` R246 and R247): the signed value divided by 2^n, rounded down; RSA keeps E. The card prints the
names only: the meaning is taken from them (decision D21; PRESUMED, log 22), and A is the high half of AE by choice
(`10_state.md` R33, decision D12; DESIGN CHOICE, log 36). -/
def Obligations.ArithmeticRightShiftsDivide : Prop :=
  ∀ (d8 : Bool) (n : BitVec 7) (s : State) (m : Addr), follows s 1 m →
    exec (.rsa d8 n) s = .next { s with a := BitVec.ofInt 16 (s.a.toInt / 2 ^ n.toNat), p := m } ∧
    ∃ hi lo : Word, exec (.rsd d8 n) s = .next { s with a := hi, e := lo, p := m } ∧
      hi ++ lo = BitVec.ofInt 32 ((s.a ++ s.e).toInt / 2 ^ n.toNat)

/-- RLA, LLA, RLD, LLD (`45_shift.md` R251 to R254) and CSA, CSD (R255 and R256): a logical shift by n brings in n zeros, a
circular one is a left rotation by n modulo the width; RLA, LLA and CSA keep E. The card prints
the names only: the meaning is taken from them (decision D21; PRESUMED, log 22), and A is the high half of AE by choice
(`10_state.md` R33, decision D12; DESIGN CHOICE, log 36). -/
def Obligations.LogicalAndCircularShifts : Prop :=
  ∀ (d8 : Bool) (n : BitVec 7) (s : State) (m : Addr), follows s 1 m →
    exec (.rla n) s = .next { s with a := s.a >>> n.toNat, p := m } ∧
    exec (.lla n) s = .next { s with a := s.a <<< n.toNat, p := m } ∧
    exec (.csa n) s = .next { s with a := s.a.rotateLeft (n.toNat % 16), p := m } ∧
    (∃ hi lo : Word, exec (.rld d8 n) s = .next { s with a := hi, e := lo, p := m } ∧
      hi ++ lo = (s.a ++ s.e) >>> n.toNat) ∧
    (∃ hi lo : Word, exec (.lld n) s = .next { s with a := hi, e := lo, p := m } ∧
      hi ++ lo = (s.a ++ s.e) <<< n.toNat) ∧
    ∃ hi lo : Word, exec (.csd n) s = .next { s with a := hi, e := lo, p := m } ∧
      hi ++ lo = (s.a ++ s.e).rotateLeft (n.toNat % 32)

/-- LSA and LSD (`45_shift.md` R248 to R250): where the signed value times 2^n fits, it is the result, with OV kept (R245; by
OV_RULE, `41_arithmetic.md` R187; log 15) and, for LSA, E kept; where it does not fit, the shift is refused (decision D22;
DESIGN CHOICE, log 21). That A is the high half of AE is a choice (`10_state.md` R33, decision D12; DESIGN CHOICE, log 36). -/
def Obligations.ArithmeticLeftShiftsMultiply : Prop :=
  ∀ (n : BitVec 7) (s : State) (m : Addr), follows s 1 m → ∀ t : Int,
    (t = s.a.toInt * 2 ^ n.toNat →
      (inRange16 t = true → ∃ v : Word, exec (.lsa n) s = .next { s with a := v, p := m } ∧ v.toInt = t) ∧
      (inRange16 t = false → exec (.lsa n) s = .refused .arithmeticLeftShiftLosesSignificance)) ∧
    (t = (s.a ++ s.e).toInt * 2 ^ n.toNat →
      (inRange32 t = true → ∃ hi lo : Word, exec (.lsd n) s = .next { s with a := hi, e := lo, p := m } ∧
        (hi ++ lo).toInt = t) ∧
      (inRange32 t = false → exec (.lsd n) s = .refused .arithmeticLeftShiftLosesSignificance))

/-- NOP (`45_shift.md` R258): it only advances, and where the next word is not installed it stops (`10_state.md` R35, decision
D11; DESIGN CHOICE, log 12). That every word of operation 34 with count 0, whatever X and D8, those of TRN, NRM and TAL among
them, is NOP is a CHOICE (`90_conflicts.md` C4, decision D23; DESIGN CHOICE, unsafe, log 23). -/
def Obligations.ZeroCountShiftsAreNop : Prop :=
  (∀ w w2 : Word, w.extractLsb' 11 5 = 0o34#5 → w.extractLsb' 0 7 = 0#7 →
    decode w w2 = .ok (.nop (w.extractLsb' 8 3) (w.getLsbD 7))) ∧
  ∀ (x : BitVec 3) (d8 : Bool) (s : State),
    (∀ n, follows s 1 n → exec (.nop x d8) s = .next { s with p := n }) ∧
    ((¬ ∃ n, follows s 1 n) → exec (.nop x d8) s = .fault .pOutsideMemory)

-- Input and output.

/-- Where the word of an XIO comes from and goes to (`47_input_output.md` R276 and R280): the second word, the word that
its bits 15-1 address (its bit 16 ignored: decision D5; DESIGN CHOICE, log 8), or A. -/
def Obligations.XioWordPlaces : Prop :=
  ∀ (s : State) (v : Word),
    s.sourceWord (.next v) = .ok v ∧ s.sourceWord .a = .ok s.a ∧ s.destLocation (Site.own 1 s) .a = .ok none ∧
    (s.p ≠ 0x7FFF#15 → s.implemented (s.p + 1#15) = true →
      s.destLocation (Site.own 2 s) (.next v) = .ok (some (s.p + 1#15))) ∧
    (s.implemented (v.setWidth 15) = true →
      s.sourceWord (.via v) = .ok (s.word (v.setWidth 15)) ∧
      s.destLocation (Site.own 2 s) (.via v) = .ok (some (v.setWidth 15)))

/-- Internal Test (`47_input_output.md` R286 and R288, decision D28; log 31 and 33): it skips if every condition tested is
zero; OV is cleared if bit 9 tests it, SPIO and EPI are only read, and nothing else but P changes. -/
def Obligations.InternalTestSkipsIfAllZero : Prop :=
  ∀ (src : XioSource) (s : State) (dw : Word), s.sourceWord src = .ok dw →
    let ov' : Bool := if dw.getLsbD 8 then false else s.ov
    (∀ t, allTestedZero s dw → skipsTo s src.length t →
      exec (.internalTest src) s = .next { s with ov := ov', p := t }) ∧
    ∀ n, ¬ allTestedZero s dw → follows s src.length n →
      exec (.internalTest src) s = .next { s with ov := ov', p := n }

/-- Internal Set (`47_input_output.md` R287): SPIO and EPI take bit 1 of the Output Data Word where bits 10 and 11 select
them, and keep their values otherwise; the other bits are ignored (R288, decision D28; DESIGN CHOICE, log 33), and nothing
else but P changes. -/
def Obligations.InternalSetWritesTheAllowFlipFlops : Prop :=
  (encode (.internalSet (.next 0#16)) = [0xF0C0#16, 0#16] ∧ encode (.internalSet (.via 0#16)) = [0xF1C0#16, 0#16] ∧
    encode (.internalSet .a) = [0xF3C0#16]) ∧
  ∀ (src : XioSource) (s : State) (dw : Word) (n : Addr), s.sourceWord src = .ok dw → follows s src.length n →
    exec (.internalSet src) s = .next { s with
      spio := if dw.getLsbD 9 then dw.getLsbD 0 else s.spio,
      epi := if dw.getLsbD 10 then dw.getLsbD 0 else s.epi, p := n }

/-- Internal Input (`47_input_output.md` R285): a word with bit 11 one, the scanner in bits 6-1 and zeros elsewhere goes to
A or to memory; it never skips. -/
def Obligations.InternalInputReadsTheScanner : Prop :=
  (encode (.internalInput (.next 0#16)) = [0xF4C0#16, 0#16] ∧ encode (.internalInput (.via 0#16)) = [0xF5C0#16, 0#16] ∧
    encode (.internalInput .a) = [0xF7C0#16]) ∧
  ∀ (dst : XioDest) (s : State) (n : Addr), follows s dst.length n →
    let w : Word := 0b00000#5 ++ 1#1 ++ 0b0000#4 ++ Config.scanner s.draws
    (dst = .a → exec (.internalInput dst) s = .next { s with a := w, p := n }) ∧
    ∀ m, s.wellFormed = true → s.destLocation (Site.own dst.length s) dst = .ok (some m) →
      ∃ t, exec (.internalInput dst) s = .next t ∧ storesOnly s m w n t

/-- External output and control (`47_input_output.md` R276, R277 and R283; K = 0 by rule R278, decision D27; log 30): the
event is recorded, with the word if the operation was performed; it skips if K = 0 and the device is ready; nothing else
but P changes. -/
def Obligations.ExternalOutputRecordsAnEvent : Prop :=
  ∀ (f : XioFunction) (c k : Bool) (ed : BitVec 6) (s : State) (out : Option Word) (n q : Addr),
    hasOutput s f c out → follows s f.length n → (k = false → skipsTo s f.length q) →
    let ready : Bool := !k && Config.ioReady s.io ed
    let mode : IoMode := if c || f == .outputBit then .direct else .compatible
    exec (.xio f c k ed) s = .next { s with
      io := s.io ++ [⟨ed, f.encode.1, mode, k, k || ready, if k || ready then out else none, none⟩],
      p := if ready then q else n }

/-- External input (`47_input_output.md` R276 and R284; K = 0 by rule R278, decision D27; log 30 and 39): if the operation
is performed, the word the environment supplies goes to A or to memory, otherwise the destination keeps its value; the
event is recorded; it skips if K = 0 and the device is ready. -/
def Obligations.ExternalInputStoresTheWordSupplied : Prop :=
  ∀ (dst : XioDest) (c k : Bool) (ed : BitVec 6) (s : State) (n q : Addr), follows s dst.length n →
    let ready : Bool := !k && Config.ioReady s.io ed
    let mode : IoMode := if c then .direct else .compatible
    let w : Word := Config.ioInput s.io ed mode (!c || k)
    let event : IoEvent := ⟨ed, dst.encode.1, mode, k, k || ready, none, if k || ready then some w else none⟩
    (dst = .a → (k = false → skipsTo s 1 q) → exec (.xio (.input dst) c k ed) s = .next { s with
      a := if k || ready then w else s.a, io := s.io ++ [event], p := if ready then q else n }) ∧
    ∀ m, s.wellFormed = true → s.destLocation (Site.own dst.length s) dst = .ok (some m) →
      (k = false → skipsTo (s.putWord m w) dst.length q) →
      ∃ t, exec (.xio (.input dst) c k ed) s = .next t ∧
        t.word m = (if k || ready then w else s.word m) ∧ t.p = (if ready then q else n) ∧ sameBytesBut m s t ∧
        sameRegisters s t ∧ sameFlipFlops s t ∧ t.memWords = s.memWords ∧ t.io = s.io ++ [event] ∧ t.draws = s.draws

-- The MOV family.

/-- MOV, CMP, MAO, NEG (`48_miscellaneous.md` R301 to R306, DEST by decision D24; log 25): every register DEST selects
receives the source, its complement, the source plus one, its negation; the others keep their values; OV is kept but
where MAO or NEG overflows (rule R187; log 15); nothing else but P changes. -/
def Obligations.MovFamilyWritesEveryDestination : Prop :=
  ∀ (dest : BitVec 5) (source : BitVec 3) (s : State) (n : Addr), follows s 1 n →
    let v : Word := s.reg source
    let moved (r : Word) (ov' : Bool) : State := { s with
      x1 := if dest.getLsbD 4 then r else s.x1, x2 := if dest.getLsbD 3 then r else s.x2,
      x4 := if dest.getLsbD 2 then r else s.x4, a := if dest.getLsbD 1 then r else s.a,
      e := if dest.getLsbD 0 then r else s.e, ov := ov', p := n }
    exec (.mov dest source) s = .next (moved v s.ov) ∧
    exec (.cmp dest source) s = .next (moved (~~~v) s.ov) ∧
    (∃ ov', exec (.mao dest source) s = .next (moved (v + 1#16) ov') ∧ (v ≠ 0x7FFF#16 → ov' = s.ov)) ∧
    ∃ ov', exec (.neg dest source) s = .next (moved (-v) ov') ∧ (v ≠ 0x8000#16 → ov' = s.ov)

/-- Negation is complement, then add one (`48_miscellaneous.md` R301): NEG to A gives what CMP to A and MAO of A to A
give. That DEST 0b00010 is A is the map `shifted` (MOV_DEST_MAP, R302, decision D24; DESIGN CHOICE, log 25). -/
def Obligations.NegIsMaoOfCmp : Prop :=
  ∀ (source : BitVec 3) (s : State) (n n' : Addr), follows s 1 n → follows { s with p := n } 1 n' →
    ∃ t u v, exec (.cmp 0b00010#5 source) s = .next t ∧ exec (.mao 0b00010#5 4#3) t = .next u ∧
      exec (.neg 0b00010#5 source) s = .next v ∧ u.a = v.a ∧ u.e = v.e ∧ u.x1 = v.x1 ∧ u.x2 = v.x2 ∧ u.x4 = v.x4

-- The machine.

/-- `State.reset`, whose values are the model's choice (log 1 to 5 and 34), meets the invariant. -/
def Obligations.ResetIsWellFormed : Prop := State.reset.wellFormed = true

/-- Every step keeps the invariant: the canonical memory inside the installed words, their number, and a history of
external XIO events only (`20_memory.md` R72, `47_input_output.md` R282). -/
def Obligations.StepKeepsWellFormed : Prop :=
  ∀ s t : State, s.wellFormed = true → step s = .next t → t.wellFormed = true

/-- A step adds at most one event, at the end of the I/O history, changes no event there, and leaves the number of
installed words as it is (`47_input_output.md` R282, `20_memory.md` R72; the step counter: log 34). -/
def Obligations.StepAppendsToTheHistory : Prop :=
  ∀ s t : State, step s = .next t →
    (t.io = s.io ∨ ∃ event, t.io = s.io ++ [event]) ∧ t.memWords = s.memWords ∧ s.draws < t.draws

/-- A step runs the decoded instruction: where no allowed interrupt is requested and the words at P decode to `i`, the
step is `exec i`, with the step counter moved on (`30_encoding.md` R103; log 34). -/
def Obligations.StepRunsTheDecodedInstruction : Prop :=
  ∀ (s : State) (w w2 : Word) (i : Instr), s.interruptArrives = false → wordsAt s s.p w w2 → decode w w2 = .ok i →
    step s = mapNext (fun t => { t with draws := t.draws + 1 }) (exec i s)

/-- An instruction stored at P is the one fetched there; so is the instruction that `withFetchWord` places (log 6). That
every store is visible to the next fetch is a CHOICE: the card does not say it, and the sentence of R85 that does is marked
decision D33 (`20_memory.md` R85, `92_eei_decisions.md` D33; DESIGN CHOICE, unsafe, log 38). -/
def Obligations.StoredInstructionIsFetched : Prop :=
  ∀ s : State, s.wellFormed = true → hasDouble s s.p →
    (∀ i : Instr, i.wellFormed = true → (s.withWordsAtP (encode i)).fetch = .ok i) ∧
    ∀ (nbits w : Nat) (i : Instr), decodeTableWord nbits w = some i → (s.withFetchWord nbits w).fetch = .ok i

/-- An interrupt request is looked at before the instruction and refused where its class is allowed
(`60_exceptions.md` R326, decision D29; log 32): no instruction answers so, and with SPIO = 0 and EPI = 0 no request has
an effect. -/
def Obligations.InterruptsAreRefusedOnlyWhereAllowed : Prop :=
  (∀ s : State, step s = .refused .interruptEntryNotInSource ↔
    (s.spio = true ∧ Config.interruptRequest s.draws .scannedProgrammed = true) ∨
      (s.epi = true ∧ Config.interruptRequest s.draws .externalPriority = true)) ∧
  ∀ s : State, s.spio = false → s.epi = false → step s ≠ .refused .interruptEntryNotInSource

/-- Nothing reads Monitor Master or INTR (`60_exceptions.md` R331, `10_state.md` R40 and R41, decisions D29 and D30; log 29
and 37): a step from a state with another MM or INTR does the same to everything else, and can neither clear MM nor set
INTR. -/
def Obligations.MonitorMasterAndIntrAreReadByNothing : Prop :=
  ∀ s : State,
    step { s with mm := true } = mapNext (fun t => { t with mm := true }) (step s) ∧
    step { s with intr := false } = mapNext (fun t => { t with intr := false }) (step s)

/-- MM is set by SMM and changed by nothing else; INTR is never set, and nothing but JCI, and XEC and SMM, which may perform
a JCI, clears it (`60_exceptions.md` R332, `10_state.md` R41; log 29 and 37). -/
def Obligations.OnlySmmSetsMonitorMaster : Prop :=
  ∀ (i : Instr) (s t : State), exec i s = .next t →
    (t.mm = true ↔ s.mm = true ∨ ∃ w2, i = .smm w2) ∧
    (t.intr = s.intr ∨ t.intr = false ∧ (performsRemote i = true ∨ ∃ o, i = .jci o))

/-- What only some instructions change, XEC and SMM performing one of them apart: OV, those of `41_arithmetic.md` R187's
table, Internal Test, AXDn and JTB; SPIO and EPI, Internal Set (`10_state.md` R37 to R39); X1, X2 and X4, LDXn, AXDn and the MOV
family; E, those that R31 names and JTB (`10_state.md` R31 and R32; log 15, 19 and 20). No shift changes OV
(`45_shift.md` R245). OV is cleared by Internal Test (`10_state.md` R37) and by the draws of R187 only. -/
def Obligations.FlipFlopsAndRegistersAreKept : Prop :=
  ∀ (i : Instr) (s t : State), exec i s = .next t →
    (mayChangeOv i = false → t.ov = s.ov) ∧ (mayClearOv i = false → s.ov = true → t.ov = true) ∧
    (mayChangeAllow i = false → t.spio = s.spio ∧ t.epi = s.epi) ∧
    (mayChangeIndex i = false → t.x1 = s.x1 ∧ t.x2 = s.x2 ∧ t.x4 = s.x4) ∧ (mayChangeE i = false → t.e = s.e)

/-- The instructions that store nothing leave every byte of memory as it is: those `20_memory.md` R76 lists without a write,
and AXDn and JTB, which it does not list, by the model's choice (DESIGN CHOICE, log 19 and 20, unsafe in this). -/
def Obligations.MemoryIsKept : Prop :=
  ∀ (i : Instr) (s t : State), storesNothing i = true → exec i s = .next t → ∀ c, t.byte c = s.byte c
end

