-- ==== Sys2Proof/Laws/Memory.lean ====
section
/-! SUPPORT. Memory: reading after writing, and that every write keeps the canonical form. -/

namespace Sys2Proof.Machine

@[simp] theorem Memory.byte_nil (c : Nat) : Memory.byte [] c = unlistedByte := rfl

theorem Memory.byte_cons (k : Nat) (v : Byte) (rest : Memory) (c : Nat) :
    Memory.byte ((k, v) :: rest) c = if k = c then v else Memory.byte rest c := rfl

/-- A write leaves every other cell alone. -/
theorem Memory.byte_putByte_other (m : Memory) {c d : Nat} (v : Byte) (h : d ≠ c) :
    (m.putByte c v).byte d = m.byte d := by
  induction m with
  | nil =>
    simp only [Memory.putByte]
    split
    · rfl
    · simp [Memory.byte_cons, h.symm]
  | cons kv rest ih =>
    obtain ⟨k, u⟩ := kv
    simp only [Memory.putByte]
    split
    · split
      · rfl
      · simp [Memory.byte_cons, h.symm]
    · split
      · subst_vars
        split <;> simp [Memory.byte_cons, h.symm]
      · simp only [Memory.byte_cons, ih]

/-- Cells below the lowest listed one read as unlisted. -/
theorem Memory.byte_below {lo hi : Nat} (m : Memory) (h : m.wfBetween lo hi = true) {c : Nat} (hc : c < lo) :
    m.byte c = unlistedByte := by
  induction m generalizing lo with
  | nil => rfl
  | cons kv rest ih =>
    obtain ⟨k, u⟩ := kv
    simp only [Memory.wfBetween, Bool.and_eq_true, decide_eq_true_eq] at h
    rw [Memory.byte_cons, if_neg (by omega)]
    exact ih h.2 (by omega)

/-- A cell just written reads as the byte written. -/
theorem Memory.byte_putByte_same {lo hi : Nat} (m : Memory) (h : m.wfBetween lo hi = true) (c : Nat) (v : Byte) :
    (m.putByte c v).byte c = v := by
  induction m generalizing lo with
  | nil =>
    simp only [Memory.putByte]
    split
    · next hv => exact hv.symm
    · simp [Memory.byte_cons]
  | cons kv rest ih =>
    obtain ⟨k, u⟩ := kv
    simp only [Memory.wfBetween, Bool.and_eq_true, decide_eq_true_eq] at h
    have hrest := h.2
    simp only [Memory.putByte]
    split
    · split
      · next hk hv =>
        rw [Memory.byte_cons, if_neg (by omega), Memory.byte_below rest hrest (by omega), hv]
      · simp [Memory.byte_cons]
    · split
      · next hk he =>
        subst he
        split
        · next hv => rw [Memory.byte_below rest hrest (by omega), hv]
        · simp [Memory.byte_cons]
      · next hk he =>
        rw [Memory.byte_cons, if_neg (fun e => he e.symm)]
        exact ih hrest

/-- The canonical form from a lower cell. -/
theorem Memory.wfBetween_mono {lo lo' hi : Nat} (m : Memory) (h : m.wfBetween lo hi = true) (hl : lo' ≤ lo) :
    m.wfBetween lo' hi = true := by
  cases m with
  | nil => rfl
  | cons kv rest =>
    obtain ⟨k, u⟩ := kv
    simp only [Memory.wfBetween, Bool.and_eq_true, decide_eq_true_eq] at h ⊢
    exact ⟨⟨⟨by omega, h.1.1.2⟩, h.1.2⟩, h.2⟩

/-- The canonical form below a higher bound. -/
theorem Memory.wfBetween_mono_hi {lo hi hi' : Nat} (m : Memory) (h : m.wfBetween lo hi = true) (hh : hi ≤ hi') :
    m.wfBetween lo hi' = true := by
  induction m generalizing lo with
  | nil => rfl
  | cons kv rest ih =>
    obtain ⟨k, u⟩ := kv
    simp only [Memory.wfBetween, Bool.and_eq_true, decide_eq_true_eq] at h ⊢
    exact ⟨⟨⟨h.1.1.1, by omega⟩, h.1.2⟩, ih h.2⟩

/-- A write keeps the canonical form. -/
theorem Memory.wfBetween_putByte {lo hi : Nat} (m : Memory) (h : m.wfBetween lo hi = true) {c : Nat} (v : Byte)
    (hlo : lo ≤ c) (hhi : c < hi) : (m.putByte c v).wfBetween lo hi = true := by
  induction m generalizing lo with
  | nil =>
    simp only [Memory.putByte]
    split
    · rfl
    · next hv => simp [Memory.wfBetween, hlo, hhi, hv]
  | cons kv rest ih =>
    obtain ⟨k, u⟩ := kv
    have h' := h
    simp only [Memory.wfBetween, Bool.and_eq_true, decide_eq_true_eq, bne_iff_ne] at h'
    obtain ⟨⟨⟨h1, h2⟩, h3⟩, h4⟩ := h'
    simp only [Memory.putByte]
    split
    · split
      · exact h
      · next hk hv =>
        simp only [Memory.wfBetween, Bool.and_eq_true, decide_eq_true_eq, bne_iff_ne]
        exact ⟨⟨⟨hlo, hhi⟩, hv⟩, ⟨⟨by omega, h2⟩, h3⟩, h4⟩
    · split
      · next hk he =>
        subst he
        split
        · exact Memory.wfBetween_mono rest h4 (by omega)
        · next hv =>
          simp only [Memory.wfBetween, Bool.and_eq_true, decide_eq_true_eq, bne_iff_ne]
          exact ⟨⟨⟨hlo, hhi⟩, hv⟩, h4⟩
      · next hk he =>
        simp only [Memory.wfBetween, Bool.and_eq_true, decide_eq_true_eq, bne_iff_ne]
        exact ⟨⟨⟨h1, h2⟩, h3⟩, ih h4 (by omega)⟩

/-- The two halves of a word, put together again. -/
theorem word_of_halves (w : Word) : w.extractLsb' 8 8 ++ w.extractLsb' 0 8 = w := by
  apply BitVec.eq_of_getLsbD_eq
  intro i hi
  simp only [BitVec.getLsbD_append, BitVec.getLsbD_extractLsb']
  by_cases h : i < 8
  · simp [h]
  · simp only [h]
    simp [show i - 8 < 8 by omega, show 8 + (i - 8) = i by omega]

/-- The word just written at an address. -/
theorem Memory.word_putWord_same {lo hi : Nat} (m : Memory) (h : m.wfBetween lo hi = true) (a : Addr) (w : Word)
    (hlo : lo ≤ cellOf a) (hhi : cellOf a < hi) : (m.putWord a w).word a = w := by
  have h1 : (m.putByte (cellOf a) (w.extractLsb' 8 8)).wfBetween lo hi = true :=
    Memory.wfBetween_putByte m h _ hlo hhi
  unfold Memory.word Memory.putWord
  rw [Memory.byte_putByte_other _ _ (show cellOf a ≠ cellOf a + 1 by omega), Memory.byte_putByte_same m h,
    Memory.byte_putByte_same _ h1]
  exact word_of_halves w

/-- A word written leaves every byte outside it alone. -/
theorem Memory.byte_putWord_other (m : Memory) (a : Addr) (w : Word) {c : Nat} (h0 : c ≠ cellOf a)
    (h1 : c ≠ cellOf a + 1) : (m.putWord a w).byte c = m.byte c := by
  unfold Memory.putWord
  rw [Memory.byte_putByte_other _ _ h1, Memory.byte_putByte_other _ _ h0]

/-- Different addresses have different cells. -/
theorem cellOf_ne {a b : Addr} (h : a ≠ b) : cellOf a ≠ cellOf b ∧ cellOf a ≠ cellOf b + 1 ∧ cellOf a + 1 ≠ cellOf b := by
  have : a.toNat ≠ b.toNat := fun e => h (BitVec.eq_of_toNat_eq e)
  unfold cellOf
  omega

/-- A word written leaves every other word alone. -/
theorem Memory.word_putWord_other (m : Memory) {a b : Addr} (w : Word) (h : b ≠ a) :
    (m.putWord a w).word b = m.word b := by
  obtain ⟨h1, h2, h3⟩ := cellOf_ne h
  unfold Memory.word
  rw [Memory.byte_putWord_other _ _ _ h1 h2, Memory.byte_putWord_other _ _ _ h3 (by omega)]

/-- A word written keeps the canonical form. -/
theorem Memory.wfBetween_putWord {lo hi : Nat} (m : Memory) (h : m.wfBetween lo hi = true) (a : Addr) (w : Word)
    (hlo : lo ≤ cellOf a) (hhi : cellOf a + 1 < hi) : (m.putWord a w).wfBetween lo hi = true :=
  Memory.wfBetween_putByte _ (Memory.wfBetween_putByte m h _ hlo (by omega)) _ (by omega) hhi

/-- Every write of a word keeps the canonical form of the whole space. -/
theorem Memory.wf_putWord (m : Memory) (h : m.wf = true) (a : Addr) (w : Word) : (m.putWord a w).wf = true := by
  have := a.isLt
  refine Memory.wfBetween_putWord m h a w (Nat.zero_le _) ?_
  unfold cellOf addressSpace
  omega

/-- The memory after reset is canonical. -/
theorem reset_mem_wf : State.reset.mem.wf = true := rfl

end Sys2Proof.Machine
end

