-- ==== Sys2Proof/Laws/State.lean ====
section
/-! SUPPORT. One lemma per field per update of the state, true by rfl, and what the checks of memory see of an update. -/

namespace Sys2Proof.Machine

variable (s : State)

@[simp] theorem State.setA_a (w : Word) : (s.setA w).a = w := rfl
@[simp] theorem State.setA_e (w : Word) : (s.setA w).e = s.e := rfl
@[simp] theorem State.setA_x1 (w : Word) : (s.setA w).x1 = s.x1 := rfl
@[simp] theorem State.setA_x2 (w : Word) : (s.setA w).x2 = s.x2 := rfl
@[simp] theorem State.setA_x4 (w : Word) : (s.setA w).x4 = s.x4 := rfl
@[simp] theorem State.setA_p (w : Word) : (s.setA w).p = s.p := rfl
@[simp] theorem State.setA_ov (w : Word) : (s.setA w).ov = s.ov := rfl
@[simp] theorem State.setA_spio (w : Word) : (s.setA w).spio = s.spio := rfl
@[simp] theorem State.setA_epi (w : Word) : (s.setA w).epi = s.epi := rfl
@[simp] theorem State.setA_mm (w : Word) : (s.setA w).mm = s.mm := rfl
@[simp] theorem State.setA_intr (w : Word) : (s.setA w).intr = s.intr := rfl
@[simp] theorem State.setA_mem (w : Word) : (s.setA w).mem = s.mem := rfl
@[simp] theorem State.setA_memWords (w : Word) : (s.setA w).memWords = s.memWords := rfl
@[simp] theorem State.setA_io (w : Word) : (s.setA w).io = s.io := rfl
@[simp] theorem State.setA_draws (w : Word) : (s.setA w).draws = s.draws := rfl

@[simp] theorem State.setA_implemented (w : Word) (adr : Addr) : (s.setA w).implemented adr = s.implemented adr := rfl
@[simp] theorem State.setA_placeFor (w : Word) (t : Nat) : (s.setA w).placeFor t = s.placeFor t := rfl
@[simp] theorem State.setA_readWord (w : Word) (adr : Addr) : (s.setA w).readWord adr = s.readWord adr := rfl
@[simp] theorem State.setA_word (w : Word) (adr : Addr) : (s.setA w).word adr = s.word adr := rfl
@[simp] theorem State.setA_byte (w : Word) (cell : Nat) : (s.setA w).byte cell = s.byte cell := rfl

@[simp] theorem State.setE_a (w : Word) : (s.setE w).a = s.a := rfl
@[simp] theorem State.setE_e (w : Word) : (s.setE w).e = w := rfl
@[simp] theorem State.setE_x1 (w : Word) : (s.setE w).x1 = s.x1 := rfl
@[simp] theorem State.setE_x2 (w : Word) : (s.setE w).x2 = s.x2 := rfl
@[simp] theorem State.setE_x4 (w : Word) : (s.setE w).x4 = s.x4 := rfl
@[simp] theorem State.setE_p (w : Word) : (s.setE w).p = s.p := rfl
@[simp] theorem State.setE_ov (w : Word) : (s.setE w).ov = s.ov := rfl
@[simp] theorem State.setE_spio (w : Word) : (s.setE w).spio = s.spio := rfl
@[simp] theorem State.setE_epi (w : Word) : (s.setE w).epi = s.epi := rfl
@[simp] theorem State.setE_mm (w : Word) : (s.setE w).mm = s.mm := rfl
@[simp] theorem State.setE_intr (w : Word) : (s.setE w).intr = s.intr := rfl
@[simp] theorem State.setE_mem (w : Word) : (s.setE w).mem = s.mem := rfl
@[simp] theorem State.setE_memWords (w : Word) : (s.setE w).memWords = s.memWords := rfl
@[simp] theorem State.setE_io (w : Word) : (s.setE w).io = s.io := rfl
@[simp] theorem State.setE_draws (w : Word) : (s.setE w).draws = s.draws := rfl

@[simp] theorem State.setE_implemented (w : Word) (adr : Addr) : (s.setE w).implemented adr = s.implemented adr := rfl
@[simp] theorem State.setE_placeFor (w : Word) (t : Nat) : (s.setE w).placeFor t = s.placeFor t := rfl
@[simp] theorem State.setE_readWord (w : Word) (adr : Addr) : (s.setE w).readWord adr = s.readWord adr := rfl
@[simp] theorem State.setE_word (w : Word) (adr : Addr) : (s.setE w).word adr = s.word adr := rfl
@[simp] theorem State.setE_byte (w : Word) (cell : Nat) : (s.setE w).byte cell = s.byte cell := rfl

@[simp] theorem State.setX1_a (w : Word) : (s.setX1 w).a = s.a := rfl
@[simp] theorem State.setX1_e (w : Word) : (s.setX1 w).e = s.e := rfl
@[simp] theorem State.setX1_x1 (w : Word) : (s.setX1 w).x1 = w := rfl
@[simp] theorem State.setX1_x2 (w : Word) : (s.setX1 w).x2 = s.x2 := rfl
@[simp] theorem State.setX1_x4 (w : Word) : (s.setX1 w).x4 = s.x4 := rfl
@[simp] theorem State.setX1_p (w : Word) : (s.setX1 w).p = s.p := rfl
@[simp] theorem State.setX1_ov (w : Word) : (s.setX1 w).ov = s.ov := rfl
@[simp] theorem State.setX1_spio (w : Word) : (s.setX1 w).spio = s.spio := rfl
@[simp] theorem State.setX1_epi (w : Word) : (s.setX1 w).epi = s.epi := rfl
@[simp] theorem State.setX1_mm (w : Word) : (s.setX1 w).mm = s.mm := rfl
@[simp] theorem State.setX1_intr (w : Word) : (s.setX1 w).intr = s.intr := rfl
@[simp] theorem State.setX1_mem (w : Word) : (s.setX1 w).mem = s.mem := rfl
@[simp] theorem State.setX1_memWords (w : Word) : (s.setX1 w).memWords = s.memWords := rfl
@[simp] theorem State.setX1_io (w : Word) : (s.setX1 w).io = s.io := rfl
@[simp] theorem State.setX1_draws (w : Word) : (s.setX1 w).draws = s.draws := rfl

@[simp] theorem State.setX1_implemented (w : Word) (adr : Addr) : (s.setX1 w).implemented adr = s.implemented adr := rfl
@[simp] theorem State.setX1_placeFor (w : Word) (t : Nat) : (s.setX1 w).placeFor t = s.placeFor t := rfl
@[simp] theorem State.setX1_readWord (w : Word) (adr : Addr) : (s.setX1 w).readWord adr = s.readWord adr := rfl
@[simp] theorem State.setX1_word (w : Word) (adr : Addr) : (s.setX1 w).word adr = s.word adr := rfl
@[simp] theorem State.setX1_byte (w : Word) (cell : Nat) : (s.setX1 w).byte cell = s.byte cell := rfl

@[simp] theorem State.setX2_a (w : Word) : (s.setX2 w).a = s.a := rfl
@[simp] theorem State.setX2_e (w : Word) : (s.setX2 w).e = s.e := rfl
@[simp] theorem State.setX2_x1 (w : Word) : (s.setX2 w).x1 = s.x1 := rfl
@[simp] theorem State.setX2_x2 (w : Word) : (s.setX2 w).x2 = w := rfl
@[simp] theorem State.setX2_x4 (w : Word) : (s.setX2 w).x4 = s.x4 := rfl
@[simp] theorem State.setX2_p (w : Word) : (s.setX2 w).p = s.p := rfl
@[simp] theorem State.setX2_ov (w : Word) : (s.setX2 w).ov = s.ov := rfl
@[simp] theorem State.setX2_spio (w : Word) : (s.setX2 w).spio = s.spio := rfl
@[simp] theorem State.setX2_epi (w : Word) : (s.setX2 w).epi = s.epi := rfl
@[simp] theorem State.setX2_mm (w : Word) : (s.setX2 w).mm = s.mm := rfl
@[simp] theorem State.setX2_intr (w : Word) : (s.setX2 w).intr = s.intr := rfl
@[simp] theorem State.setX2_mem (w : Word) : (s.setX2 w).mem = s.mem := rfl
@[simp] theorem State.setX2_memWords (w : Word) : (s.setX2 w).memWords = s.memWords := rfl
@[simp] theorem State.setX2_io (w : Word) : (s.setX2 w).io = s.io := rfl
@[simp] theorem State.setX2_draws (w : Word) : (s.setX2 w).draws = s.draws := rfl

@[simp] theorem State.setX2_implemented (w : Word) (adr : Addr) : (s.setX2 w).implemented adr = s.implemented adr := rfl
@[simp] theorem State.setX2_placeFor (w : Word) (t : Nat) : (s.setX2 w).placeFor t = s.placeFor t := rfl
@[simp] theorem State.setX2_readWord (w : Word) (adr : Addr) : (s.setX2 w).readWord adr = s.readWord adr := rfl
@[simp] theorem State.setX2_word (w : Word) (adr : Addr) : (s.setX2 w).word adr = s.word adr := rfl
@[simp] theorem State.setX2_byte (w : Word) (cell : Nat) : (s.setX2 w).byte cell = s.byte cell := rfl

@[simp] theorem State.setX4_a (w : Word) : (s.setX4 w).a = s.a := rfl
@[simp] theorem State.setX4_e (w : Word) : (s.setX4 w).e = s.e := rfl
@[simp] theorem State.setX4_x1 (w : Word) : (s.setX4 w).x1 = s.x1 := rfl
@[simp] theorem State.setX4_x2 (w : Word) : (s.setX4 w).x2 = s.x2 := rfl
@[simp] theorem State.setX4_x4 (w : Word) : (s.setX4 w).x4 = w := rfl
@[simp] theorem State.setX4_p (w : Word) : (s.setX4 w).p = s.p := rfl
@[simp] theorem State.setX4_ov (w : Word) : (s.setX4 w).ov = s.ov := rfl
@[simp] theorem State.setX4_spio (w : Word) : (s.setX4 w).spio = s.spio := rfl
@[simp] theorem State.setX4_epi (w : Word) : (s.setX4 w).epi = s.epi := rfl
@[simp] theorem State.setX4_mm (w : Word) : (s.setX4 w).mm = s.mm := rfl
@[simp] theorem State.setX4_intr (w : Word) : (s.setX4 w).intr = s.intr := rfl
@[simp] theorem State.setX4_mem (w : Word) : (s.setX4 w).mem = s.mem := rfl
@[simp] theorem State.setX4_memWords (w : Word) : (s.setX4 w).memWords = s.memWords := rfl
@[simp] theorem State.setX4_io (w : Word) : (s.setX4 w).io = s.io := rfl
@[simp] theorem State.setX4_draws (w : Word) : (s.setX4 w).draws = s.draws := rfl

@[simp] theorem State.setX4_implemented (w : Word) (adr : Addr) : (s.setX4 w).implemented adr = s.implemented adr := rfl
@[simp] theorem State.setX4_placeFor (w : Word) (t : Nat) : (s.setX4 w).placeFor t = s.placeFor t := rfl
@[simp] theorem State.setX4_readWord (w : Word) (adr : Addr) : (s.setX4 w).readWord adr = s.readWord adr := rfl
@[simp] theorem State.setX4_word (w : Word) (adr : Addr) : (s.setX4 w).word adr = s.word adr := rfl
@[simp] theorem State.setX4_byte (w : Word) (cell : Nat) : (s.setX4 w).byte cell = s.byte cell := rfl

@[simp] theorem State.setP_a (m : Addr) : (s.setP m).a = s.a := rfl
@[simp] theorem State.setP_e (m : Addr) : (s.setP m).e = s.e := rfl
@[simp] theorem State.setP_x1 (m : Addr) : (s.setP m).x1 = s.x1 := rfl
@[simp] theorem State.setP_x2 (m : Addr) : (s.setP m).x2 = s.x2 := rfl
@[simp] theorem State.setP_x4 (m : Addr) : (s.setP m).x4 = s.x4 := rfl
@[simp] theorem State.setP_p (m : Addr) : (s.setP m).p = m := rfl
@[simp] theorem State.setP_ov (m : Addr) : (s.setP m).ov = s.ov := rfl
@[simp] theorem State.setP_spio (m : Addr) : (s.setP m).spio = s.spio := rfl
@[simp] theorem State.setP_epi (m : Addr) : (s.setP m).epi = s.epi := rfl
@[simp] theorem State.setP_mm (m : Addr) : (s.setP m).mm = s.mm := rfl
@[simp] theorem State.setP_intr (m : Addr) : (s.setP m).intr = s.intr := rfl
@[simp] theorem State.setP_mem (m : Addr) : (s.setP m).mem = s.mem := rfl
@[simp] theorem State.setP_memWords (m : Addr) : (s.setP m).memWords = s.memWords := rfl
@[simp] theorem State.setP_io (m : Addr) : (s.setP m).io = s.io := rfl
@[simp] theorem State.setP_draws (m : Addr) : (s.setP m).draws = s.draws := rfl

@[simp] theorem State.setP_implemented (m : Addr) (adr : Addr) : (s.setP m).implemented adr = s.implemented adr := rfl
@[simp] theorem State.setP_placeFor (m : Addr) (t : Nat) : (s.setP m).placeFor t = s.placeFor t := rfl
@[simp] theorem State.setP_readWord (m : Addr) (adr : Addr) : (s.setP m).readWord adr = s.readWord adr := rfl
@[simp] theorem State.setP_word (m : Addr) (adr : Addr) : (s.setP m).word adr = s.word adr := rfl
@[simp] theorem State.setP_byte (m : Addr) (cell : Nat) : (s.setP m).byte cell = s.byte cell := rfl

@[simp] theorem State.setSpio_a (b : Bool) : (s.setSpio b).a = s.a := rfl
@[simp] theorem State.setSpio_e (b : Bool) : (s.setSpio b).e = s.e := rfl
@[simp] theorem State.setSpio_x1 (b : Bool) : (s.setSpio b).x1 = s.x1 := rfl
@[simp] theorem State.setSpio_x2 (b : Bool) : (s.setSpio b).x2 = s.x2 := rfl
@[simp] theorem State.setSpio_x4 (b : Bool) : (s.setSpio b).x4 = s.x4 := rfl
@[simp] theorem State.setSpio_p (b : Bool) : (s.setSpio b).p = s.p := rfl
@[simp] theorem State.setSpio_ov (b : Bool) : (s.setSpio b).ov = s.ov := rfl
@[simp] theorem State.setSpio_spio (b : Bool) : (s.setSpio b).spio = b := rfl
@[simp] theorem State.setSpio_epi (b : Bool) : (s.setSpio b).epi = s.epi := rfl
@[simp] theorem State.setSpio_mm (b : Bool) : (s.setSpio b).mm = s.mm := rfl
@[simp] theorem State.setSpio_intr (b : Bool) : (s.setSpio b).intr = s.intr := rfl
@[simp] theorem State.setSpio_mem (b : Bool) : (s.setSpio b).mem = s.mem := rfl
@[simp] theorem State.setSpio_memWords (b : Bool) : (s.setSpio b).memWords = s.memWords := rfl
@[simp] theorem State.setSpio_io (b : Bool) : (s.setSpio b).io = s.io := rfl
@[simp] theorem State.setSpio_draws (b : Bool) : (s.setSpio b).draws = s.draws := rfl

@[simp] theorem State.setSpio_implemented (b : Bool) (adr : Addr) : (s.setSpio b).implemented adr = s.implemented adr := rfl
@[simp] theorem State.setSpio_placeFor (b : Bool) (t : Nat) : (s.setSpio b).placeFor t = s.placeFor t := rfl
@[simp] theorem State.setSpio_readWord (b : Bool) (adr : Addr) : (s.setSpio b).readWord adr = s.readWord adr := rfl
@[simp] theorem State.setSpio_word (b : Bool) (adr : Addr) : (s.setSpio b).word adr = s.word adr := rfl
@[simp] theorem State.setSpio_byte (b : Bool) (cell : Nat) : (s.setSpio b).byte cell = s.byte cell := rfl

@[simp] theorem State.setEpi_a (b : Bool) : (s.setEpi b).a = s.a := rfl
@[simp] theorem State.setEpi_e (b : Bool) : (s.setEpi b).e = s.e := rfl
@[simp] theorem State.setEpi_x1 (b : Bool) : (s.setEpi b).x1 = s.x1 := rfl
@[simp] theorem State.setEpi_x2 (b : Bool) : (s.setEpi b).x2 = s.x2 := rfl
@[simp] theorem State.setEpi_x4 (b : Bool) : (s.setEpi b).x4 = s.x4 := rfl
@[simp] theorem State.setEpi_p (b : Bool) : (s.setEpi b).p = s.p := rfl
@[simp] theorem State.setEpi_ov (b : Bool) : (s.setEpi b).ov = s.ov := rfl
@[simp] theorem State.setEpi_spio (b : Bool) : (s.setEpi b).spio = s.spio := rfl
@[simp] theorem State.setEpi_epi (b : Bool) : (s.setEpi b).epi = b := rfl
@[simp] theorem State.setEpi_mm (b : Bool) : (s.setEpi b).mm = s.mm := rfl
@[simp] theorem State.setEpi_intr (b : Bool) : (s.setEpi b).intr = s.intr := rfl
@[simp] theorem State.setEpi_mem (b : Bool) : (s.setEpi b).mem = s.mem := rfl
@[simp] theorem State.setEpi_memWords (b : Bool) : (s.setEpi b).memWords = s.memWords := rfl
@[simp] theorem State.setEpi_io (b : Bool) : (s.setEpi b).io = s.io := rfl
@[simp] theorem State.setEpi_draws (b : Bool) : (s.setEpi b).draws = s.draws := rfl

@[simp] theorem State.setEpi_implemented (b : Bool) (adr : Addr) : (s.setEpi b).implemented adr = s.implemented adr := rfl
@[simp] theorem State.setEpi_placeFor (b : Bool) (t : Nat) : (s.setEpi b).placeFor t = s.placeFor t := rfl
@[simp] theorem State.setEpi_readWord (b : Bool) (adr : Addr) : (s.setEpi b).readWord adr = s.readWord adr := rfl
@[simp] theorem State.setEpi_word (b : Bool) (adr : Addr) : (s.setEpi b).word adr = s.word adr := rfl
@[simp] theorem State.setEpi_byte (b : Bool) (cell : Nat) : (s.setEpi b).byte cell = s.byte cell := rfl

@[simp] theorem State.setAE_a (v : DWord) : (s.setAE v).a = v.extractLsb' 16 16 := rfl
@[simp] theorem State.setAE_e (v : DWord) : (s.setAE v).e = v.extractLsb' 0 16 := rfl
@[simp] theorem State.setAE_x1 (v : DWord) : (s.setAE v).x1 = s.x1 := rfl
@[simp] theorem State.setAE_x2 (v : DWord) : (s.setAE v).x2 = s.x2 := rfl
@[simp] theorem State.setAE_x4 (v : DWord) : (s.setAE v).x4 = s.x4 := rfl
@[simp] theorem State.setAE_p (v : DWord) : (s.setAE v).p = s.p := rfl
@[simp] theorem State.setAE_ov (v : DWord) : (s.setAE v).ov = s.ov := rfl
@[simp] theorem State.setAE_spio (v : DWord) : (s.setAE v).spio = s.spio := rfl
@[simp] theorem State.setAE_epi (v : DWord) : (s.setAE v).epi = s.epi := rfl
@[simp] theorem State.setAE_mm (v : DWord) : (s.setAE v).mm = s.mm := rfl
@[simp] theorem State.setAE_intr (v : DWord) : (s.setAE v).intr = s.intr := rfl
@[simp] theorem State.setAE_mem (v : DWord) : (s.setAE v).mem = s.mem := rfl
@[simp] theorem State.setAE_memWords (v : DWord) : (s.setAE v).memWords = s.memWords := rfl
@[simp] theorem State.setAE_io (v : DWord) : (s.setAE v).io = s.io := rfl
@[simp] theorem State.setAE_draws (v : DWord) : (s.setAE v).draws = s.draws := rfl

@[simp] theorem State.setAE_implemented (v : DWord) (adr : Addr) : (s.setAE v).implemented adr = s.implemented adr := rfl
@[simp] theorem State.setAE_placeFor (v : DWord) (t : Nat) : (s.setAE v).placeFor t = s.placeFor t := rfl
@[simp] theorem State.setAE_readWord (v : DWord) (adr : Addr) : (s.setAE v).readWord adr = s.readWord adr := rfl
@[simp] theorem State.setAE_word (v : DWord) (adr : Addr) : (s.setAE v).word adr = s.word adr := rfl
@[simp] theorem State.setAE_byte (v : DWord) (cell : Nat) : (s.setAE v).byte cell = s.byte cell := rfl

@[simp] theorem State.setMonitorMaster_a : s.setMonitorMaster.a = s.a := rfl
@[simp] theorem State.setMonitorMaster_e : s.setMonitorMaster.e = s.e := rfl
@[simp] theorem State.setMonitorMaster_x1 : s.setMonitorMaster.x1 = s.x1 := rfl
@[simp] theorem State.setMonitorMaster_x2 : s.setMonitorMaster.x2 = s.x2 := rfl
@[simp] theorem State.setMonitorMaster_x4 : s.setMonitorMaster.x4 = s.x4 := rfl
@[simp] theorem State.setMonitorMaster_p : s.setMonitorMaster.p = s.p := rfl
@[simp] theorem State.setMonitorMaster_ov : s.setMonitorMaster.ov = s.ov := rfl
@[simp] theorem State.setMonitorMaster_spio : s.setMonitorMaster.spio = s.spio := rfl
@[simp] theorem State.setMonitorMaster_epi : s.setMonitorMaster.epi = s.epi := rfl
@[simp] theorem State.setMonitorMaster_mm : s.setMonitorMaster.mm = true := rfl
@[simp] theorem State.setMonitorMaster_intr : s.setMonitorMaster.intr = s.intr := rfl
@[simp] theorem State.setMonitorMaster_mem : s.setMonitorMaster.mem = s.mem := rfl
@[simp] theorem State.setMonitorMaster_memWords : s.setMonitorMaster.memWords = s.memWords := rfl
@[simp] theorem State.setMonitorMaster_io : s.setMonitorMaster.io = s.io := rfl
@[simp] theorem State.setMonitorMaster_draws : s.setMonitorMaster.draws = s.draws := rfl

@[simp] theorem State.setMonitorMaster_implemented (adr : Addr) : s.setMonitorMaster.implemented adr = s.implemented adr := rfl
@[simp] theorem State.setMonitorMaster_placeFor (t : Nat) : s.setMonitorMaster.placeFor t = s.placeFor t := rfl
@[simp] theorem State.setMonitorMaster_readWord (adr : Addr) : s.setMonitorMaster.readWord adr = s.readWord adr := rfl
@[simp] theorem State.setMonitorMaster_word (adr : Addr) : s.setMonitorMaster.word adr = s.word adr := rfl
@[simp] theorem State.setMonitorMaster_byte (cell : Nat) : s.setMonitorMaster.byte cell = s.byte cell := rfl

@[simp] theorem State.clearInterrupt_a : s.clearInterrupt.a = s.a := rfl
@[simp] theorem State.clearInterrupt_e : s.clearInterrupt.e = s.e := rfl
@[simp] theorem State.clearInterrupt_x1 : s.clearInterrupt.x1 = s.x1 := rfl
@[simp] theorem State.clearInterrupt_x2 : s.clearInterrupt.x2 = s.x2 := rfl
@[simp] theorem State.clearInterrupt_x4 : s.clearInterrupt.x4 = s.x4 := rfl
@[simp] theorem State.clearInterrupt_p : s.clearInterrupt.p = s.p := rfl
@[simp] theorem State.clearInterrupt_ov : s.clearInterrupt.ov = s.ov := rfl
@[simp] theorem State.clearInterrupt_spio : s.clearInterrupt.spio = s.spio := rfl
@[simp] theorem State.clearInterrupt_epi : s.clearInterrupt.epi = s.epi := rfl
@[simp] theorem State.clearInterrupt_mm : s.clearInterrupt.mm = s.mm := rfl
@[simp] theorem State.clearInterrupt_intr : s.clearInterrupt.intr = false := rfl
@[simp] theorem State.clearInterrupt_mem : s.clearInterrupt.mem = s.mem := rfl
@[simp] theorem State.clearInterrupt_memWords : s.clearInterrupt.memWords = s.memWords := rfl
@[simp] theorem State.clearInterrupt_io : s.clearInterrupt.io = s.io := rfl
@[simp] theorem State.clearInterrupt_draws : s.clearInterrupt.draws = s.draws := rfl

@[simp] theorem State.clearInterrupt_implemented (adr : Addr) : s.clearInterrupt.implemented adr = s.implemented adr := rfl
@[simp] theorem State.clearInterrupt_placeFor (t : Nat) : s.clearInterrupt.placeFor t = s.placeFor t := rfl
@[simp] theorem State.clearInterrupt_readWord (adr : Addr) : s.clearInterrupt.readWord adr = s.readWord adr := rfl
@[simp] theorem State.clearInterrupt_word (adr : Addr) : s.clearInterrupt.word adr = s.word adr := rfl
@[simp] theorem State.clearInterrupt_byte (cell : Nat) : s.clearInterrupt.byte cell = s.byte cell := rfl

@[simp] theorem State.record_a (ev : IoEvent) : (s.record ev).a = s.a := rfl
@[simp] theorem State.record_e (ev : IoEvent) : (s.record ev).e = s.e := rfl
@[simp] theorem State.record_x1 (ev : IoEvent) : (s.record ev).x1 = s.x1 := rfl
@[simp] theorem State.record_x2 (ev : IoEvent) : (s.record ev).x2 = s.x2 := rfl
@[simp] theorem State.record_x4 (ev : IoEvent) : (s.record ev).x4 = s.x4 := rfl
@[simp] theorem State.record_p (ev : IoEvent) : (s.record ev).p = s.p := rfl
@[simp] theorem State.record_ov (ev : IoEvent) : (s.record ev).ov = s.ov := rfl
@[simp] theorem State.record_spio (ev : IoEvent) : (s.record ev).spio = s.spio := rfl
@[simp] theorem State.record_epi (ev : IoEvent) : (s.record ev).epi = s.epi := rfl
@[simp] theorem State.record_mm (ev : IoEvent) : (s.record ev).mm = s.mm := rfl
@[simp] theorem State.record_intr (ev : IoEvent) : (s.record ev).intr = s.intr := rfl
@[simp] theorem State.record_mem (ev : IoEvent) : (s.record ev).mem = s.mem := rfl
@[simp] theorem State.record_memWords (ev : IoEvent) : (s.record ev).memWords = s.memWords := rfl
@[simp] theorem State.record_io (ev : IoEvent) : (s.record ev).io = s.io ++ [ev] := rfl
@[simp] theorem State.record_draws (ev : IoEvent) : (s.record ev).draws = s.draws := rfl

@[simp] theorem State.record_implemented (ev : IoEvent) (adr : Addr) : (s.record ev).implemented adr = s.implemented adr := rfl
@[simp] theorem State.record_placeFor (ev : IoEvent) (t : Nat) : (s.record ev).placeFor t = s.placeFor t := rfl
@[simp] theorem State.record_readWord (ev : IoEvent) (adr : Addr) : (s.record ev).readWord adr = s.readWord adr := rfl
@[simp] theorem State.record_word (ev : IoEvent) (adr : Addr) : (s.record ev).word adr = s.word adr := rfl
@[simp] theorem State.record_byte (ev : IoEvent) (cell : Nat) : (s.record ev).byte cell = s.byte cell := rfl

@[simp] theorem State.tick_a : s.tick.a = s.a := rfl
@[simp] theorem State.tick_e : s.tick.e = s.e := rfl
@[simp] theorem State.tick_x1 : s.tick.x1 = s.x1 := rfl
@[simp] theorem State.tick_x2 : s.tick.x2 = s.x2 := rfl
@[simp] theorem State.tick_x4 : s.tick.x4 = s.x4 := rfl
@[simp] theorem State.tick_p : s.tick.p = s.p := rfl
@[simp] theorem State.tick_ov : s.tick.ov = s.ov := rfl
@[simp] theorem State.tick_spio : s.tick.spio = s.spio := rfl
@[simp] theorem State.tick_epi : s.tick.epi = s.epi := rfl
@[simp] theorem State.tick_mm : s.tick.mm = s.mm := rfl
@[simp] theorem State.tick_intr : s.tick.intr = s.intr := rfl
@[simp] theorem State.tick_mem : s.tick.mem = s.mem := rfl
@[simp] theorem State.tick_memWords : s.tick.memWords = s.memWords := rfl
@[simp] theorem State.tick_io : s.tick.io = s.io := rfl
@[simp] theorem State.tick_draws : s.tick.draws = s.draws + 1 := rfl

@[simp] theorem State.tick_implemented (adr : Addr) : s.tick.implemented adr = s.implemented adr := rfl
@[simp] theorem State.tick_placeFor (t : Nat) : s.tick.placeFor t = s.placeFor t := rfl
@[simp] theorem State.tick_readWord (adr : Addr) : s.tick.readWord adr = s.readWord adr := rfl
@[simp] theorem State.tick_word (adr : Addr) : s.tick.word adr = s.word adr := rfl
@[simp] theorem State.tick_byte (cell : Nat) : s.tick.byte cell = s.byte cell := rfl

@[simp] theorem State.putWord_a (m : Addr) (w : Word) : (s.putWord m w).a = s.a := rfl
@[simp] theorem State.putWord_e (m : Addr) (w : Word) : (s.putWord m w).e = s.e := rfl
@[simp] theorem State.putWord_x1 (m : Addr) (w : Word) : (s.putWord m w).x1 = s.x1 := rfl
@[simp] theorem State.putWord_x2 (m : Addr) (w : Word) : (s.putWord m w).x2 = s.x2 := rfl
@[simp] theorem State.putWord_x4 (m : Addr) (w : Word) : (s.putWord m w).x4 = s.x4 := rfl
@[simp] theorem State.putWord_p (m : Addr) (w : Word) : (s.putWord m w).p = s.p := rfl
@[simp] theorem State.putWord_ov (m : Addr) (w : Word) : (s.putWord m w).ov = s.ov := rfl
@[simp] theorem State.putWord_spio (m : Addr) (w : Word) : (s.putWord m w).spio = s.spio := rfl
@[simp] theorem State.putWord_epi (m : Addr) (w : Word) : (s.putWord m w).epi = s.epi := rfl
@[simp] theorem State.putWord_mm (m : Addr) (w : Word) : (s.putWord m w).mm = s.mm := rfl
@[simp] theorem State.putWord_intr (m : Addr) (w : Word) : (s.putWord m w).intr = s.intr := rfl
@[simp] theorem State.putWord_mem (m : Addr) (w : Word) : (s.putWord m w).mem = s.mem.putWord m w := rfl
@[simp] theorem State.putWord_memWords (m : Addr) (w : Word) : (s.putWord m w).memWords = s.memWords := rfl
@[simp] theorem State.putWord_io (m : Addr) (w : Word) : (s.putWord m w).io = s.io := rfl
@[simp] theorem State.putWord_draws (m : Addr) (w : Word) : (s.putWord m w).draws = s.draws := rfl

@[simp] theorem State.putWord_implemented (m : Addr) (w : Word) (adr : Addr) : (s.putWord m w).implemented adr = s.implemented adr := rfl
@[simp] theorem State.putWord_placeFor (m : Addr) (w : Word) (t : Nat) : (s.putWord m w).placeFor t = s.placeFor t := rfl

@[simp] theorem State.ovAfter_a (k : OvCase) (c : Parameters) : (s.ovAfter k c).a = s.a := rfl
@[simp] theorem State.ovAfter_e (k : OvCase) (c : Parameters) : (s.ovAfter k c).e = s.e := rfl
@[simp] theorem State.ovAfter_x1 (k : OvCase) (c : Parameters) : (s.ovAfter k c).x1 = s.x1 := rfl
@[simp] theorem State.ovAfter_x2 (k : OvCase) (c : Parameters) : (s.ovAfter k c).x2 = s.x2 := rfl
@[simp] theorem State.ovAfter_x4 (k : OvCase) (c : Parameters) : (s.ovAfter k c).x4 = s.x4 := rfl
@[simp] theorem State.ovAfter_p (k : OvCase) (c : Parameters) : (s.ovAfter k c).p = s.p := rfl
@[simp] theorem State.ovAfter_ov (k : OvCase) (c : Parameters) : (s.ovAfter k c).ov = (c.ovRule k).newOv s := rfl
@[simp] theorem State.ovAfter_spio (k : OvCase) (c : Parameters) : (s.ovAfter k c).spio = s.spio := rfl
@[simp] theorem State.ovAfter_epi (k : OvCase) (c : Parameters) : (s.ovAfter k c).epi = s.epi := rfl
@[simp] theorem State.ovAfter_mm (k : OvCase) (c : Parameters) : (s.ovAfter k c).mm = s.mm := rfl
@[simp] theorem State.ovAfter_intr (k : OvCase) (c : Parameters) : (s.ovAfter k c).intr = s.intr := rfl
@[simp] theorem State.ovAfter_mem (k : OvCase) (c : Parameters) : (s.ovAfter k c).mem = s.mem := rfl
@[simp] theorem State.ovAfter_memWords (k : OvCase) (c : Parameters) : (s.ovAfter k c).memWords = s.memWords := rfl
@[simp] theorem State.ovAfter_io (k : OvCase) (c : Parameters) : (s.ovAfter k c).io = s.io := rfl
@[simp] theorem State.ovAfter_draws (k : OvCase) (c : Parameters) : (s.ovAfter k c).draws = s.draws := rfl

@[simp] theorem State.ovAfter_implemented (k : OvCase) (c : Parameters) (adr : Addr) : (s.ovAfter k c).implemented adr = s.implemented adr := rfl
@[simp] theorem State.ovAfter_placeFor (k : OvCase) (c : Parameters) (t : Nat) : (s.ovAfter k c).placeFor t = s.placeFor t := rfl
@[simp] theorem State.ovAfter_readWord (k : OvCase) (c : Parameters) (adr : Addr) : (s.ovAfter k c).readWord adr = s.readWord adr := rfl
@[simp] theorem State.ovAfter_word (k : OvCase) (c : Parameters) (adr : Addr) : (s.ovAfter k c).word adr = s.word adr := rfl
@[simp] theorem State.ovAfter_byte (k : OvCase) (c : Parameters) (cell : Nat) : (s.ovAfter k c).byte cell = s.byte cell := rfl

@[simp] theorem State.maySetOv_a : s.maySetOv.a = s.a := rfl
@[simp] theorem State.maySetOv_e : s.maySetOv.e = s.e := rfl
@[simp] theorem State.maySetOv_x1 : s.maySetOv.x1 = s.x1 := rfl
@[simp] theorem State.maySetOv_x2 : s.maySetOv.x2 = s.x2 := rfl
@[simp] theorem State.maySetOv_x4 : s.maySetOv.x4 = s.x4 := rfl
@[simp] theorem State.maySetOv_p : s.maySetOv.p = s.p := rfl
@[simp] theorem State.maySetOv_ov : s.maySetOv.ov = (s.ov || Config.drawOv s.draws) := rfl
@[simp] theorem State.maySetOv_spio : s.maySetOv.spio = s.spio := rfl
@[simp] theorem State.maySetOv_epi : s.maySetOv.epi = s.epi := rfl
@[simp] theorem State.maySetOv_mm : s.maySetOv.mm = s.mm := rfl
@[simp] theorem State.maySetOv_intr : s.maySetOv.intr = s.intr := rfl
@[simp] theorem State.maySetOv_mem : s.maySetOv.mem = s.mem := rfl
@[simp] theorem State.maySetOv_memWords : s.maySetOv.memWords = s.memWords := rfl
@[simp] theorem State.maySetOv_io : s.maySetOv.io = s.io := rfl
@[simp] theorem State.maySetOv_draws : s.maySetOv.draws = s.draws := rfl

@[simp] theorem State.maySetOv_implemented (adr : Addr) : s.maySetOv.implemented adr = s.implemented adr := rfl
@[simp] theorem State.maySetOv_placeFor (t : Nat) : s.maySetOv.placeFor t = s.placeFor t := rfl
@[simp] theorem State.maySetOv_readWord (adr : Addr) : s.maySetOv.readWord adr = s.readWord adr := rfl
@[simp] theorem State.maySetOv_word (adr : Addr) : s.maySetOv.word adr = s.word adr := rfl
@[simp] theorem State.maySetOv_byte (cell : Nat) : s.maySetOv.byte cell = s.byte cell := rfl

-- What OV_RULE does at its default.

@[simp] theorem OvEffect.newOv_unchanged : OvEffect.unchanged.newOv s = s.ov := rfl
@[simp] theorem OvEffect.newOv_set : OvEffect.set.newOv s = true := rfl
@[simp] theorem OvEffect.newOv_draw : OvEffect.draw.newOv s = Config.drawOv s.draws := rfl

@[simp] theorem ovRule_parameters : parameters.ovRule = defaultOvRule := rfl
@[simp] theorem ovRule_specParameters : specParameters.ovRule = defaultOvRule := rfl

@[simp] theorem State.ovAfter_mpy (a v : Word) : s.ovAfter (.mpy a v) = s := rfl
@[simp] theorem State.ovAfter_lsa (a : Word) (n : BitVec 7) : s.ovAfter (.lsa a n) = s := rfl
@[simp] theorem State.ovAfter_lsd (ae : DWord) (n : BitVec 7) : s.ovAfter (.lsd ae n) = s := rfl
@[simp] theorem State.ovAfter_dvd (ae : DWord) (v : Word) : s.ovAfter (.dvd ae v false) = s := rfl

/-- At the default of OV_RULE every other instruction keeps OV. -/
@[simp] theorem State.ovAfter_other (i : Instr) (s0 : State) : s.ovAfter (.other i s0) = s := rfl
@[simp] theorem State.ovAfter_other_spec (i : Instr) (s0 : State) : s.ovAfter (.other i s0) specParameters = s := rfl

@[simp] theorem withOtherOv_parameters (i : Instr) (r : Answer) : withOtherOv i s r = r := by
  cases r <;> simp [withOtherOv]

@[simp] theorem withOtherOv_specParameters (i : Instr) (r : Answer) : withOtherOv i s r specParameters = r := by
  cases r <;> simp [withOtherOv]

/-- ADD sets OV where the sum leaves the 16-bit range, and keeps it otherwise. -/
@[simp] theorem newOv_add (a v : Word) :
    (defaultOvRule (.add a v)).newOv s = (s.ov || !fits16 (a.toInt + v.toInt)) := by
  cases h : fits16 (a.toInt + v.toInt) <;> simp [defaultOvRule, h]

/-- SUB sets OV where the difference leaves the 16-bit range, and keeps it otherwise. -/
@[simp] theorem newOv_sub (a v : Word) :
    (defaultOvRule (.sub a v)).newOv s = (s.ov || !fits16 (a.toInt - v.toInt)) := by
  cases h : fits16 (a.toInt - v.toInt) <;> simp [defaultOvRule, h]

/-- DAD sets OV where the sum leaves the 32-bit range, and keeps it otherwise. -/
@[simp] theorem newOv_dad (ae v : DWord) :
    (defaultOvRule (.dad ae v)).newOv s = (s.ov || !fits32 (ae.toInt + v.toInt)) := by
  cases h : fits32 (ae.toInt + v.toInt) <;> simp [defaultOvRule, h]

/-- DVD draws OV on an overflow divide. -/
@[simp] theorem newOv_dvd (ae : DWord) (v : Word) : (defaultOvRule (.dvd ae v true)).newOv s = Config.drawOv s.draws := rfl

/-- MAO draws OV for the source `0x7FFF`, and keeps it otherwise. -/
@[simp] theorem newOv_mao (v : Word) :
    (defaultOvRule (.mao v)).newOv s = if v = 0x7FFF#16 then Config.drawOv s.draws else s.ov := by
  by_cases h : v = 0x7FFF#16 <;> simp [defaultOvRule, h]

/-- NEG draws OV for the source `0x8000`, and keeps it otherwise. -/
@[simp] theorem newOv_neg (v : Word) :
    (defaultOvRule (.neg v)).newOv s = if v = 0x8000#16 then Config.drawOv s.draws else s.ov := by
  by_cases h : v = 0x8000#16 <;> simp [defaultOvRule, h]

/-- IMT and AMTn draw OV where the sum leaves the 16-bit range, and keep it otherwise. -/
@[simp] theorem newOv_addToMemory (k : BitVec 3) (old : Word) :
    (defaultOvRule (.addToMemory k old)).newOv s =
      if fits16 (old.toInt + k.toNat) then s.ov else Config.drawOv s.draws := by
  cases h : fits16 (old.toInt + k.toNat) <;> simp [defaultOvRule, h]

@[simp] theorem State.clearOvIf_a (c : Bool) : (s.clearOvIf c).a = s.a := rfl
@[simp] theorem State.clearOvIf_e (c : Bool) : (s.clearOvIf c).e = s.e := rfl
@[simp] theorem State.clearOvIf_x1 (c : Bool) : (s.clearOvIf c).x1 = s.x1 := rfl
@[simp] theorem State.clearOvIf_x2 (c : Bool) : (s.clearOvIf c).x2 = s.x2 := rfl
@[simp] theorem State.clearOvIf_x4 (c : Bool) : (s.clearOvIf c).x4 = s.x4 := rfl
@[simp] theorem State.clearOvIf_p (c : Bool) : (s.clearOvIf c).p = s.p := rfl
@[simp] theorem State.clearOvIf_ov (c : Bool) : (s.clearOvIf c).ov = if c then false else s.ov := rfl
@[simp] theorem State.clearOvIf_spio (c : Bool) : (s.clearOvIf c).spio = s.spio := rfl
@[simp] theorem State.clearOvIf_epi (c : Bool) : (s.clearOvIf c).epi = s.epi := rfl
@[simp] theorem State.clearOvIf_mm (c : Bool) : (s.clearOvIf c).mm = s.mm := rfl
@[simp] theorem State.clearOvIf_intr (c : Bool) : (s.clearOvIf c).intr = s.intr := rfl
@[simp] theorem State.clearOvIf_mem (c : Bool) : (s.clearOvIf c).mem = s.mem := rfl
@[simp] theorem State.clearOvIf_memWords (c : Bool) : (s.clearOvIf c).memWords = s.memWords := rfl
@[simp] theorem State.clearOvIf_io (c : Bool) : (s.clearOvIf c).io = s.io := rfl
@[simp] theorem State.clearOvIf_draws (c : Bool) : (s.clearOvIf c).draws = s.draws := rfl

@[simp] theorem State.clearOvIf_implemented (c : Bool) (adr : Addr) : (s.clearOvIf c).implemented adr = s.implemented adr := rfl
@[simp] theorem State.clearOvIf_placeFor (c : Bool) (t : Nat) : (s.clearOvIf c).placeFor t = s.placeFor t := rfl
@[simp] theorem State.clearOvIf_readWord (c : Bool) (adr : Addr) : (s.clearOvIf c).readWord adr = s.readWord adr := rfl
@[simp] theorem State.clearOvIf_word (c : Bool) (adr : Addr) : (s.clearOvIf c).word adr = s.word adr := rfl
@[simp] theorem State.clearOvIf_byte (c : Bool) (cell : Nat) : (s.clearOvIf c).byte cell = s.byte cell := rfl

@[simp] theorem State.writeDest_a (d : BitVec 5) (r : Word) : (s.writeDest d r).a = if d.getLsbD 1 then r else s.a := rfl
@[simp] theorem State.writeDest_e (d : BitVec 5) (r : Word) : (s.writeDest d r).e = if d.getLsbD 0 then r else s.e := rfl
@[simp] theorem State.writeDest_x1 (d : BitVec 5) (r : Word) : (s.writeDest d r).x1 = if d.getLsbD 4 then r else s.x1 := rfl
@[simp] theorem State.writeDest_x2 (d : BitVec 5) (r : Word) : (s.writeDest d r).x2 = if d.getLsbD 3 then r else s.x2 := rfl
@[simp] theorem State.writeDest_x4 (d : BitVec 5) (r : Word) : (s.writeDest d r).x4 = if d.getLsbD 2 then r else s.x4 := rfl
@[simp] theorem State.writeDest_p (d : BitVec 5) (r : Word) : (s.writeDest d r).p = s.p := rfl
@[simp] theorem State.writeDest_ov (d : BitVec 5) (r : Word) : (s.writeDest d r).ov = s.ov := rfl
@[simp] theorem State.writeDest_spio (d : BitVec 5) (r : Word) : (s.writeDest d r).spio = s.spio := rfl
@[simp] theorem State.writeDest_epi (d : BitVec 5) (r : Word) : (s.writeDest d r).epi = s.epi := rfl
@[simp] theorem State.writeDest_mm (d : BitVec 5) (r : Word) : (s.writeDest d r).mm = s.mm := rfl
@[simp] theorem State.writeDest_intr (d : BitVec 5) (r : Word) : (s.writeDest d r).intr = s.intr := rfl
@[simp] theorem State.writeDest_mem (d : BitVec 5) (r : Word) : (s.writeDest d r).mem = s.mem := rfl
@[simp] theorem State.writeDest_memWords (d : BitVec 5) (r : Word) : (s.writeDest d r).memWords = s.memWords := rfl
@[simp] theorem State.writeDest_io (d : BitVec 5) (r : Word) : (s.writeDest d r).io = s.io := rfl
@[simp] theorem State.writeDest_draws (d : BitVec 5) (r : Word) : (s.writeDest d r).draws = s.draws := rfl

@[simp] theorem State.writeDest_implemented (d : BitVec 5) (r : Word) (adr : Addr) : (s.writeDest d r).implemented adr = s.implemented adr := rfl
@[simp] theorem State.writeDest_placeFor (d : BitVec 5) (r : Word) (t : Nat) : (s.writeDest d r).placeFor t = s.placeFor t := rfl
@[simp] theorem State.writeDest_readWord (d : BitVec 5) (r : Word) (adr : Addr) : (s.writeDest d r).readWord adr = s.readWord adr := rfl
@[simp] theorem State.writeDest_word (d : BitVec 5) (r : Word) (adr : Addr) : (s.writeDest d r).word adr = s.word adr := rfl
@[simp] theorem State.writeDest_byte (d : BitVec 5) (r : Word) (cell : Nat) : (s.writeDest d r).byte cell = s.byte cell := rfl

/-- An input word changes A or one word of memory. -/
theorem State.storeInput_cases (dst : Option Addr) (w : Word) :
    (dst = none ∧ s.storeInput dst w = s.setA w) ∨ ∃ m, dst = some m ∧ s.storeInput dst w = s.putWord m w := by
  cases dst with
  | none => exact .inl ⟨rfl, rfl⟩
  | some m => exact .inr ⟨m, rfl, rfl⟩

end Sys2Proof.Machine
end

