-- ==== Sys2Proof/Laws/Ops.lean ====
section
/-! SUPPORT. For each shared operation, what it can answer. -/

namespace Sys2Proof.Machine

@[simp] theorem withValue_ok {α : Type} (v : α) (k : α → Answer) : withValue (.ok v) k = k v := rfl
@[simp] theorem withValue_error {α : Type} (e : Stop) (k : α → Answer) : withValue (.error e) k = e.answer := rfl
@[simp] theorem Stop.answer_fault (f : Fault) : (Stop.fault f).answer = .fault f := rfl
@[simp] theorem Stop.answer_refusal (r : Refusal) : (Stop.refusal r).answer = .refused r := rfl

/-- A stop is never a next state. -/
theorem Stop.answer_ne_next (e : Stop) (t : State) : e.answer ≠ .next t := by
  cases e <;> simp

/-- A meaning that goes on with a value had that value. -/
theorem withValue_eq_next {α : Type} {r : Except Stop α} {k : α → Answer} {t : State} :
    withValue r k = .next t ↔ ∃ v, r = .ok v ∧ k v = .next t := by
  cases r with
  | ok v => simp
  | error e => simp [Stop.answer_ne_next]

/-- Going on with a checked value of a part that was itself checked. -/
theorem bind_eq_ok {α β : Type} {r : Except Stop α} {k : α → Except Stop β} {b : β} :
    r.bind k = .ok b ↔ ∃ v, r = .ok v ∧ k v = .ok b := by
  cases r <;> simp [Except.bind]

theorem map_eq_ok {α β : Type} {r : Except Stop α} {f : α → β} {b : β} :
    r.map f = .ok b ↔ ∃ v, r = .ok v ∧ f v = b := by
  cases r <;> simp [Except.map]

@[simp] theorem bind_ok {α β : Type} (v : α) (k : α → Except Stop β) : (Except.ok v).bind k = k v := rfl
@[simp] theorem map_ok {α β : Type} (v : α) (f : α → β) : (Except.ok v : Except Stop α).map f = .ok (f v) := rfl

-- The parameters: those of the running machine and those of the spec's own configuration.

@[simp] theorem parameters_longGStrict : parameters.longGStrict = false := rfl
@[simp] theorem parameters_mpyFn : parameters.mpyFn = defaultMpyFn := rfl
@[simp] theorem parameters_dvdFn : parameters.dvdFn = defaultDvdFn := rfl
@[simp] theorem parameters_movDestMap : parameters.movDestMap = .shifted := rfl
@[simp] theorem parameters_namedOnly (i : Instr) : parameters.namedOnly i = none := rfl
@[simp] theorem parameters_ioReady : parameters.ioReady = Config.ioReady := rfl
@[simp] theorem parameters_ioInput : parameters.ioInput = Config.ioInput := rfl
@[simp] theorem parameters_sense : parameters.sense = Config.senseSwitches := rfl
@[simp] theorem parameters_scanner : parameters.scanner = Config.scanner := rfl
@[simp] theorem parameters_whereOpen : parameters.whereOpen = .run := rfl

@[simp] theorem designatorAny_false (g : BitVec 3) : designatorAny false g = true := rfl
@[simp] theorem destRegisters_shifted (dest : BitVec 5) : destRegisters .shifted dest = dest := rfl
@[simp] theorem namedOnlyMeaning_parameters (i : Instr) (at_ : Site) (unsupplied : Answer) (s : State) :
    namedOnlyMeaning i at_ unsupplied s = unsupplied := rfl
@[simp] theorem ifRun_parameters (refusal : Refusal) (run : Answer) : ifRun parameters refusal run = run := rfl
@[simp] theorem ifRun_specParameters (refusal : Refusal) (run : Answer) :
    ifRun specParameters refusal run = .refused refusal := rfl

/-- The running machine refuses no skip. -/
@[simp] theorem skipRefused_parameters (w : Word) : skipRefused w = false := by
  unfold skipRefused parameters
  cases Config.skipOneInstruction <;> simp

/-- The running machine refuses no address word. -/
@[simp] theorem addressRefused_parameters (iw : Word) : addressRefused iw = false := by
  simp [addressRefused, parameters]

/-- Rows 1, 4, 5 and 6 of the short format all add D or all subtract it. -/
theorem signedRow_parameters (base : Word) (d : BitVec 8) :
    signedRow base d = .ok (if Config.shortDispAllPlus then base + displacement d else base - displacement d) := by
  unfold signedRow parameters
  split
  · next h => subst h; cases Config.shortDispAllPlus <;> simp [displacement]
  · cases Config.shortDispAllPlus <;> rfl

/-- The spec's own configuration refuses a skip over a two-word instruction. -/
@[simp] theorem skipRefused_specParameters (w : Word) : skipRefused w specParameters = isTwoWord w := by
  simp [skipRefused, specParameters]

/-- The spec's own configuration refuses an address word with bit 16 set. -/
@[simp] theorem addressRefused_specParameters (iw : Word) : addressRefused iw specParameters = iw.msb := by
  simp [addressRefused, specParameters]

/-- The codes of PIn own the locations `0o40` to `0o77`. -/
theorem piAddress_toNat (n : BitVec 5) : (piAddress n).toNat = 0o40 + n.toNat := by
  have := n.isLt
  simp only [piAddress, BitVec.toNat_add, BitVec.toNat_setWidth, BitVec.toNat_ofNat]
  omega

-- Memory.

theorem State.readWord_eq_ok {s : State} {a : Addr} {w : Word} :
    s.readWord a = .ok w ↔ s.implemented a = true ∧ s.word a = w := by
  unfold State.readWord
  split <;> simp_all

theorem State.writeWord_eq_ok {s t : State} {a : Addr} {w : Word} :
    s.writeWord a w = .ok t ↔ s.implemented a = true ∧ s.putWord a w = t := by
  unfold State.writeWord
  split <;> simp_all

theorem nextAddress_eq_ok {m n : Addr} : nextAddress m = .ok n ↔ m ≠ 0x7FFF#15 ∧ m + 1#15 = n := by
  unfold nextAddress
  split <;> simp_all

theorem State.readDouble_eq_ok {s : State} {m : Addr} {v : DWord} :
    s.readDouble m = .ok v ↔
      s.implemented m = true ∧ m ≠ 0x7FFF#15 ∧ s.implemented (m + 1#15) = true ∧ s.word m ++ s.word (m + 1#15) = v := by
  unfold State.readDouble
  simp only [bind_eq_ok, map_eq_ok, State.readWord_eq_ok, nextAddress_eq_ok]
  constructor
  · rintro ⟨_, ⟨h1, rfl⟩, _, ⟨h2, rfl⟩, _, ⟨h3, rfl⟩, rfl⟩
    exact ⟨h1, h2, h3, rfl⟩
  · rintro ⟨h1, h2, h3, rfl⟩
    exact ⟨_, ⟨h1, rfl⟩, _, ⟨h2, rfl⟩, _, ⟨h3, rfl⟩, rfl⟩

theorem State.writeDouble_eq_ok {s t : State} {m : Addr} {hi lo : Word} :
    s.writeDouble m hi lo = .ok t ↔
      s.implemented m = true ∧ m ≠ 0x7FFF#15 ∧ s.implemented (m + 1#15) = true ∧
        (s.putWord m hi).putWord (m + 1#15) lo = t := by
  unfold State.writeDouble
  simp only [bind_eq_ok, State.writeWord_eq_ok, nextAddress_eq_ok]
  constructor
  · rintro ⟨_, ⟨h1, rfl⟩, _, ⟨h2, rfl⟩, h3, rfl⟩
    exact ⟨h1, h2, h3, rfl⟩
  · rintro ⟨h1, h2, h3, rfl⟩
    exact ⟨_, ⟨h1, rfl⟩, _, ⟨h2, rfl⟩, h3, rfl⟩

/-- The word just written, in a state whose memory is canonical. -/
theorem State.word_putWord_same (s : State) (h : s.mem.wf = true) (m : Addr) (w : Word) : (s.putWord m w).word m = w := by
  have := m.isLt
  refine Memory.word_putWord_same s.mem h m w (Nat.zero_le _) ?_
  unfold cellOf addressSpace
  omega

theorem State.word_putWord_other (s : State) {m a : Addr} (w : Word) (h : a ≠ m) : (s.putWord m w).word a = s.word a :=
  Memory.word_putWord_other s.mem w h

theorem State.byte_putWord_other (s : State) (m : Addr) (w : Word) {c : Nat} (h0 : c ≠ cellOf m) (h1 : c ≠ cellOf m + 1) :
    (s.putWord m w).byte c = s.byte c :=
  Memory.byte_putWord_other s.mem m w h0 h1

-- Where an instruction continues.

theorem State.placeFor_eq_ok {s : State} {t : Nat} {m : Addr} :
    s.placeFor t = .ok m ↔ t < addressSpace ∧ s.implemented (BitVec.ofNat 15 t) = true ∧ BitVec.ofNat 15 t = m := by
  unfold State.placeFor
  split
  · next h =>
    simp only [Bool.and_eq_true, decide_eq_true_eq] at h
    simp [h]
  · next h =>
    simp only [Bool.and_eq_true, decide_eq_true_eq, not_and] at h
    simp only [reduceCtorEq, false_iff, not_and]
    intro h1 h2
    exact absurd h2 (h h1)

/-- A place to continue depends only on the installed memory. -/
theorem State.placeFor_congr {s t : State} (h : t.memWords = s.memWords) (n : Nat) : t.placeFor n = s.placeFor n := by
  unfold State.placeFor State.implemented
  rw [h]

theorem continueAt_eq_next {n : Nat} {s t : State} :
    continueAt n s = .next t ↔ ∃ m, s.placeFor n = .ok m ∧ t = s.setP m := by
  unfold continueAt
  simp only [withValue_eq_next, Host.Outcome.next.injEq]
  exact exists_congr fun m => and_congr_right fun _ => eq_comm

theorem advance_eq_next {at_ : Site} {s t : State} :
    advance at_ s = .next t ↔ ∃ m, s.placeFor at_.next = .ok m ∧ t = s.setP m := continueAt_eq_next

theorem jumpTo_eq_next {m : Addr} {s t : State} : jumpTo m s = .next t ↔ t = s.setP m := by
  simp [jumpTo, eq_comm]

/-- A skip changes P only. -/
theorem skip_eq_next {at_ : Site} {s t : State} {c : Parameters} (h : skip at_ s c = .next t) : ∃ m, t = s.setP m := by
  obtain ⟨_, _, h⟩ := withValue_eq_next.1 h
  split at h
  · cases h
  · obtain ⟨m, _, rfl⟩ := continueAt_eq_next.1 h
    exact ⟨m, rfl⟩

/-- Skipping or not changes P only. -/
theorem skipIf_eq_next {b : Bool} {at_ : Site} {s t : State} {c : Parameters} (h : skipIf b at_ s c = .next t) : ∃ m, t = s.setP m := by
  unfold skipIf at h
  split at h
  · exact skip_eq_next h
  · obtain ⟨m, _, rfl⟩ := advance_eq_next.1 h
    exact ⟨m, rfl⟩

/-- A skip of the running machine goes on past `next`. -/
theorem skip_own (at_ : Site) (s : State) :
    skip at_ s = withValue (s.placeFor at_.next) fun n => continueAt (at_.next + skipLength (s.word n)) s := by
  simp [skip]

/-- A skip goes one or two words past `next`. -/
theorem skipLength_cases (w : Word) (c : Parameters) :
    skipLength w c = 1 ∨ (isTwoWord w = true ∧ skipLength w c = 2) := by
  unfold skipLength
  split
  · next h => split <;> simp [h]
  · exact .inl rfl

-- Operands.

theorem formAddress_eq_ok {v : Word} {m : Addr} : formAddress v = .ok m ↔ v.msb = false ∧ v.setWidth 15 = m := by
  unfold formAddress
  split <;> simp_all

/-- The running machine takes bits 15 to 1 of every address word. -/
@[simp] theorem addressIn_parameters (iw : Word) : addressIn iw = .ok (iw.setWidth 15) := by
  simp [addressIn]

theorem State.indirectVia_eq_ok {s : State} {v : Word} {m : Addr} :
    s.indirectVia v = .ok m ↔
      v.msb = false ∧ s.implemented (v.setWidth 15) = true ∧ (s.word (v.setWidth 15)).setWidth 15 = m := by
  unfold State.indirectVia
  simp only [bind_eq_ok, addressIn_parameters, Except.ok.injEq, State.readWord_eq_ok, formAddress_eq_ok]
  constructor
  · rintro ⟨_, ⟨h1, rfl⟩, _, ⟨h2, rfl⟩, rfl⟩
    exact ⟨h1, h2, rfl⟩
  · rintro ⟨h1, h2, rfl⟩
    exact ⟨_, ⟨h1, rfl⟩, _, ⟨h2, rfl⟩, rfl⟩

-- The shapes of the meanings.

theorem loadWith_eq_next {set : State → Word → State} {o : Form} {at_ : Site} {s t : State} :
    loadWith set o at_ s = .next t ↔
      ∃ v, s.operandOf at_ o = .ok v ∧ ∃ m, (set s v).placeFor at_.next = .ok m ∧ t = (set s v).setP m := by
  simp [loadWith, withValue_eq_next, advance_eq_next]

theorem storeWord_eq_next {w : Word} {o : Form} {at_ : Site} {s t : State} :
    storeWord w o at_ s = .next t ↔
      ∃ m, s.locationOf at_ o = .ok m ∧ s.implemented m = true ∧
        ∃ n, s.placeFor at_.next = .ok n ∧ t = (s.putWord m w).setP n := by
  simp only [storeWord, withValue_eq_next, advance_eq_next, State.writeWord_eq_ok]
  constructor
  · rintro ⟨m, h1, _, ⟨h2, rfl⟩, n, h3, rfl⟩
    exact ⟨m, h1, h2, n, h3, rfl⟩
  · rintro ⟨m, h1, h2, n, h3, rfl⟩
    exact ⟨m, h1, _, ⟨h2, rfl⟩, n, h3, rfl⟩

/-- A conditional jump changes P only. -/
theorem jumpIf_eq_next {b : Bool} {o : Form} {at_ : Site} {s t : State} (h : jumpIf b o at_ s = .next t) :
    ∃ m, t = s.setP m := by
  obtain ⟨m, _, h⟩ := withValue_eq_next.1 h
  split at h
  · exact ⟨_, jumpTo_eq_next.1 h⟩
  · obtain ⟨m, _, rfl⟩ := advance_eq_next.1 h
    exact ⟨m, rfl⟩

/-- RTJ stores the address after it. -/
theorem returnWord_eq_ok {at_ : Site} {w : Word} :
    returnWord at_ = .ok w ↔ at_.next < addressSpace ∧ w = BitVec.ofNat 16 at_.next := by
  unfold returnWord
  split <;> simp_all [eq_comm]

/-- A compare changes P only. -/
theorem compareWith_eq_next {c : Word → Word → Bool} {o : Form} {at_ : Site} {s t : State}
    (h : compareWith c o at_ s = .next t) : ∃ m, t = s.setP m := by
  obtain ⟨v, _, h⟩ := withValue_eq_next.1 h
  exact skipIf_eq_next h

/-- IMT and AMTn change one word of memory, OV and P. -/
theorem addToMemory_eq_next {k : BitVec 3} {o : Form} {at_ : Site} {s t : State} (h : addToMemory k o at_ s = .next t) :
    ∃ m n, s.locationOf at_ o = .ok m ∧ s.implemented m = true ∧
      t = (((s.putWord m (s.word m + k.setWidth 16)).ovAfter (.addToMemory k (s.word m))).setP n) := by
  obtain ⟨m, h1, h⟩ := withValue_eq_next.1 h
  obtain ⟨_, h2, h⟩ := withValue_eq_next.1 h
  obtain ⟨h3, rfl⟩ := State.readWord_eq_ok.1 h2
  obtain ⟨_, h4, h⟩ := withValue_eq_next.1 h
  obtain ⟨_, rfl⟩ := State.writeWord_eq_ok.1 h4
  obtain ⟨n, rfl⟩ := skipIf_eq_next h
  exact ⟨m, n, h1, h3, rfl⟩

theorem shiftA_eq_next {f : Word → Word} {n : BitVec 7} {at_ : Site} {s t : State} :
    shiftA f n at_ s = .next t ↔
      ∃ m, s.placeFor at_.next = .ok m ∧ t = (s.setA (times f n.toNat s.a)).setP m := by
  simp [shiftA, advance_eq_next]

theorem shiftAE_eq_next {f : DWord → DWord} {n : BitVec 7} {at_ : Site} {s t : State} :
    shiftAE f n at_ s = .next t ↔
      ∃ m, s.placeFor at_.next = .ok m ∧ t = (s.setAE (times f n.toNat s.ae)).setP m := by
  simp [shiftAE, advance_eq_next]

theorem moveWith_eq_next {f : Word → Word} {dest : BitVec 5} {source : BitVec 3} {at_ : Site} {s t : State} :
    moveWith f dest source at_ s = .next t ↔
      ∃ m, s.placeFor at_.next = .ok m ∧ t = (s.writeDest dest (f (s.reg source))).setP m := by
  simp [moveWith, advance_eq_next]

/-- An external output changes the I/O history and P. -/
theorem performOutput_eq_next {f : XioFunction} {out : Option Word} {c k : Bool} {ed : BitVec 6} {at_ : Site} {s t : State}
    (h : performOutput f out c k ed at_ s = .next t) :
    ∃ m, t = (s.record ⟨ed, f.encode.1, xioMode f c, k, k || deviceReady k ed s,
      if k || deviceReady k ed s then out else none, none⟩).setP m := by
  unfold performOutput at h
  exact skipIf_eq_next h

/-- An external input changes its destination, if performed, the I/O history and P. -/
theorem performInput_eq_next {f : XioFunction} {dst : Option Addr} {c k : Bool} {ed : BitVec 6} {at_ : Site} {s t : State}
    (h : performInput f dst c k ed at_ s = .next t) :
    ∃ m iw ev, t = ((if k || deviceReady k ed s then s.storeInput dst iw else s).record ev).setP m := by
  unfold performInput at h
  obtain ⟨m, rfl⟩ := skipIf_eq_next h
  exact ⟨m, _, _, rfl⟩

/-- With the running parameters a remote instruction is performed by its own `perform`. -/
@[simp] theorem performRemote_parameters (i : Instr) (at_ : Site) (s : State) :
    performRemote i at_ s = performOne i at_ s := by
  simp [performRemote]

/-- So it is in the spec's own configuration. -/
@[simp] theorem performRemote_specParameters (i : Instr) (at_ : Site) (s : State) :
    performRemote i at_ s specParameters = performOne i at_ s specParameters := by
  simp [performRemote]

/-- A remote performance fetches an instruction of the admitted set and performs it at the site of the XEC or SMM. -/
theorem runRemote_eq_next {m : Addr} {at_ : Site} {s t : State} :
    runRemote m at_ s = .next t ↔
      ∃ i, s.fetchRemote m = .ok i ∧ admitted i = true ∧ performRemote i at_ s = .next t := by
  unfold runRemote
  simp only [withValue_eq_next]
  constructor
  · rintro ⟨i, hf, h⟩
    split at h
    · next ha => exact ⟨i, hf, ha, h⟩
    · cases h
  · rintro ⟨i, hf, ha, h⟩
    exact ⟨i, hf, by simpa [ha] using h⟩

/-- SMM takes its address word from location 1, where its Y is 1. -/
theorem smmLocation_eq_ok {w2 : Word} {m : Addr} : smmLocation w2 = .ok m ↔ w2.setWidth 15 = 1#15 ∧ m = 1#15 := by
  unfold smmLocation
  split <;> simp_all [eq_comm]

-- The step.

@[simp] theorem ticked_next (s : State) : ticked (.next s) = .next s.tick := rfl

theorem ticked_eq_next {r : Answer} {t : State} : ticked r = .next t ↔ ∃ s, r = .next s ∧ t = s.tick := by
  cases r <;> simp [ticked, eq_comm]

/-- `exec` is the performance at the instruction's own place with the running parameters. -/
theorem exec_eq_execWith (i : Instr) (s : State) : exec i s = execWith parameters i s := by
  cases i <;> simp only [execWith, perform, performRemote, withOtherOv_parameters] <;> rfl

/-- `step` is the step with the running parameters. -/
theorem step_eq_stepWith (s : State) : step s = stepWith parameters s := by
  simp [step, stepWith, exec_eq_execWith]

/-- What a step that goes on has done: no allowed interrupt came, an instruction was fetched and executed. -/
theorem step_eq_next {s t : State} :
    step s = .next t ↔ s.interruptArrives = false ∧ ∃ i, s.fetch = .ok i ∧ ∃ s', exec i s = .next s' ∧ t = s'.tick := by
  unfold step
  split
  · next h => simp [h]
  · next h => simp [h, withValue_eq_next, ticked_eq_next]

end Sys2Proof.Machine
end

