-- ==== Sys2Proof/Laws/Follows.lean ====
section
/-! SUPPORT. What the notions that statements use (`follows`, `skipsTo`, `hasDouble`, `isOperand`, `isAddressOf`) say of the
shared operations: the completion side of `Laws/Ops.lean`. -/

namespace Sys2Proof.Machine

/-- The place after an instruction is one to continue at. -/
theorem follows.placeFor {s : State} {len : Nat} {n : Addr} (h : follows s len n) :
    s.placeFor (s.p.toNat + len) = .ok n := by
  obtain ⟨h1, h2⟩ := h
  have e : BitVec.ofNat 15 (s.p.toNat + len) = n := by rw [← h1]; simp
  exact State.placeFor_eq_ok.2 ⟨by rw [← h1]; exact n.isLt, by rw [e]; exact h2, e⟩

/-- An instruction that has the same installed memory as `s` and no jump continues at `n`. -/
theorem follows.advance {s t : State} {len : Nat} {n : Addr} (h : follows s len n) (ht : t.memWords = s.memWords) :
    advance (Site.own len s) t = .next (t.setP n) :=
  advance_eq_next.2 ⟨n, by rw [State.placeFor_congr ht]; exact h.placeFor, rfl⟩

/-- A place to continue at is one that follows. -/
theorem follows_of_placeFor {s : State} {len : Nat} {n : Addr} (h : s.placeFor (s.p.toNat + len) = .ok n) :
    follows s len n := by
  obtain ⟨h1, h2, h3⟩ := State.placeFor_eq_ok.1 h
  subst h3
  unfold addressSpace at h1
  exact ⟨by rw [BitVec.toNat_ofNat]; omega, h2⟩

/-- The installed memory decides whether a word is there. -/
theorem State.implemented_congr {s t : State} (h : t.memWords = s.memWords) (a : Addr) :
    t.implemented a = s.implemented a := by
  unfold State.implemented
  rw [h]

/-- A skip lands where `skipsTo` says, for a state with the same P and installed memory. -/
theorem skipsTo.skip {s t : State} {len : Nat} {q : Addr} (h : skipsTo t len q) (hp : t.p = s.p) :
    skip (Site.own len s) t = .next (t.setP q) := by
  obtain ⟨n, hn, hq, hi⟩ := h
  have h1 : t.placeFor (s.p.toNat + len) = .ok n := hp ▸ hn.placeFor
  have h2 : t.placeFor (s.p.toNat + len + skipLength (t.word n)) = .ok q := by
    have e := hn.1
    rw [hp] at e
    rw [← e, ← hq]
    exact State.placeFor_eq_ok.2 ⟨q.isLt, by simpa using hi, by simp⟩
  rw [skip_own]
  simp only [Site.own, h1, withValue_ok]
  exact continueAt_eq_next.2 ⟨q, h2, rfl⟩

/-- The operand of class READ1 at the instruction's own place. -/
theorem isOperand.operandOf {s : State} {o : Form} {v : Word} (h : isOperand s o v) (len : Nat) :
    s.operandOf (Site.own len s) o = .ok v := by
  cases o with
  | short x d =>
    cases x <;> first
      | (simp only [isOperand] at h; subst h; rfl)
      | (obtain ⟨m, h1, h2, h3⟩ := h
         simp only [State.operandOf, Site.own, h1, bind_ok, State.readWord_eq_ok]
         exact ⟨h2, h3⟩)
  | long x g w2 =>
    cases x <;> first
      | (simp only [isOperand] at h; subst h; rfl)
      | (obtain ⟨m, h1, h2, h3⟩ := h
         simp only [State.operandOf, h1, bind_ok, State.readWord_eq_ok]
         exact ⟨h2, h3⟩)

/-- A double word that is there is read and written. -/
theorem hasDouble.readDouble {s : State} {m : Addr} (h : hasDouble s m) :
    s.readDouble m = .ok (s.word m ++ s.word (m + 1#15)) :=
  State.readDouble_eq_ok.2 ⟨h.2.1, h.1, h.2.2, rfl⟩

theorem hasDouble.writeDouble {s : State} {m : Addr} (h : hasDouble s m) (hi lo : Word) :
    s.writeDouble m hi lo = .ok ((s.putWord m hi).putWord (m + 1#15) lo) :=
  State.writeDouble_eq_ok.2 ⟨h.2.1, h.1, h.2.2, rfl⟩

/-- The invariant's memory is canonical. -/
theorem State.wf_of_wellFormed {s : State} (h : s.wellFormed = true) : s.mem.wf = true := by
  simp only [State.wellFormed, Bool.and_eq_true, decide_eq_true_eq] at h
  exact Memory.wfBetween_mono_hi _ h.1.1.1 (by omega)

/-- In a well-formed state a stored word is the one stored. -/
theorem State.wellFormed.word_putWord {s : State} (h : s.wellFormed = true) (m : Addr) (w : Word) :
    (s.putWord m w).word m = w := State.word_putWord_same s (State.wf_of_wellFormed h) m w

/-- An address that is formed is the sum, and one that is not lies outside the space. -/
theorem isAddressOf_formAddress (v : Word) : isAddressOf v (formAddress v) := by
  unfold isAddressOf formAddress addressSpace
  have := v.isLt
  by_cases h : v.toNat < 32768
  · have hm : v.msb = false := by rw [BitVec.msb_eq_decide]; simp; omega
    simp only [h, hm, if_true, Bool.false_eq_true, if_false]
    refine ⟨_, rfl, ?_⟩
    rw [BitVec.toNat_setWidth]
    omega
  · have hm : v.msb = true := by rw [BitVec.msb_eq_decide]; simp; omega
    simp [h, hm]

end Sys2Proof.Machine
end

