-- ==== Sys2Proof/Laws/PerInstr.lean ====
section
/-! SUPPORT. Statements made once for each instruction: the encoding of an instruction has the length that `30_encoding.md`
rule R104 gives it. -/

namespace Sys2Proof.Laws.EncodeLength

/-- The encoder gives as many words as the instruction is long. -/
def Statement (i : Instr) : Prop := (encode i).length = i.length

/-- Both formats of an S/L instruction. -/
theorem form (op : BitVec 5) (o : Form) : (o.encode op).length = o.length := by
  cases o <;> rfl

/-- The words of an XIO that outputs. -/
theorem source (src : XioSource) (c k : Bool) (ed : BitVec 6) : (xioWords src.encode c k ed).length = src.length := by
  cases src <;> rfl

/-- The words of an XIO that inputs. -/
theorem dest (dst : XioDest) (c k : Bool) (ed : BitVec 6) : (xioWords dst.encode c k ed).length = dst.length := by
  cases dst <;> rfl

theorem lda (o : Form) : Statement (.lda o) := form _ o
theorem lde (o : Form) : Statement (.lde o) := form _ o
theorem ldx1 (alt : Bool) (x : Modifier) (w2 : Word) : Statement (.ldx1 alt x w2) := rfl
theorem ldx2 (alt : Bool) (x : Modifier) (w2 : Word) : Statement (.ldx2 alt x w2) := rfl
theorem ldx4 (alt : Bool) (x : Modifier) (w2 : Word) : Statement (.ldx4 alt x w2) := rfl
theorem dla (o : Form) : Statement (.dla o) := form _ o
theorem cls (x : Modifier) (w2 : Word) : Statement (.cls x w2) := rfl
theorem cld (x : Modifier) (w2 : Word) : Statement (.cld x w2) := rfl
theorem prs (x : Modifier) (w2 : Word) : Statement (.prs x w2) := rfl
theorem prd (x : Modifier) (w2 : Word) : Statement (.prd x w2) := rfl
theorem sta (o : Form) : Statement (.sta o) := form _ o
theorem ste (o : Form) : Statement (.ste o) := form _ o
theorem dst (o : Form) : Statement (.dst o) := form _ o
theorem stx1 (alt : Bool) (x : Modifier) (w2 : Word) : Statement (.stx1 alt x w2) := rfl
theorem stx2 (alt : Bool) (x : Modifier) (w2 : Word) : Statement (.stx2 alt x w2) := rfl
theorem stx4 (alt : Bool) (x : Modifier) (w2 : Word) : Statement (.stx4 alt x w2) := rfl
theorem stz (alt : Bool) (x : Modifier) (w2 : Word) : Statement (.stz alt x w2) := rfl
theorem add (o : Form) : Statement (.add o) := form _ o
theorem sub (o : Form) : Statement (.sub o) := form _ o
theorem mpy (o : Form) : Statement (.mpy o) := form _ o
theorem dad (o : Form) : Statement (.dad o) := form _ o
theorem dvd (o : Form) : Statement (.dvd o) := form _ o
theorem axd1 (d : BitVec 8) : Statement (.axd1 d) := rfl
theorem axd2 (d : BitVec 8) : Statement (.axd2 d) := rfl
theorem axd4 (d : BitVec 8) : Statement (.axd4 d) := rfl
theorem lor (o : Form) : Statement (.lor o) := form _ o
theorem and (o : Form) : Statement (.and o) := form _ o
theorem xor (o : Form) : Statement (.xor o) := form _ o
theorem jmp (o : Form) : Statement (.jmp o) := form _ o
theorem jci (o : Form) : Statement (.jci o) := form _ o
theorem jlz (o : Form) : Statement (.jlz o) := form _ o
theorem jez (o : Form) : Statement (.jez o) := form _ o
theorem jgz (o : Form) : Statement (.jgz o) := form _ o
theorem rtj (o : Form) : Statement (.rtj o) := form _ o
theorem jtb (o : Form) : Statement (.jtb o) := form _ o
theorem xec (o : Form) : Statement (.xec o) := form _ o
theorem kal (o : Form) : Statement (.kal o) := form _ o
theorem kaq (o : Form) : Statement (.kaq o) := form _ o
theorem kah (o : Form) : Statement (.kah o) := form _ o
theorem imt (o : Form) : Statement (.imt o) := form _ o
theorem amt0 (x : Modifier) (w2 : Word) : Statement (.amt0 x w2) := rfl
theorem amt2 (x : Modifier) (w2 : Word) : Statement (.amt2 x w2) := rfl
theorem amt3 (x : Modifier) (w2 : Word) : Statement (.amt3 x w2) := rfl
theorem amt4 (x : Modifier) (w2 : Word) : Statement (.amt4 x w2) := rfl
theorem amt5 (x : Modifier) (w2 : Word) : Statement (.amt5 x w2) := rfl
theorem amt6 (x : Modifier) (w2 : Word) : Statement (.amt6 x w2) := rfl
theorem amt7 (x : Modifier) (w2 : Word) : Statement (.amt7 x w2) := rfl
theorem smm (w2 : Word) : Statement (.smm w2) := rfl
theorem rsa (d8 : Bool) (n : BitVec 7) : Statement (.rsa d8 n) := rfl
theorem rsd (d8 : Bool) (n : BitVec 7) : Statement (.rsd d8 n) := rfl
theorem lsa (n : BitVec 7) : Statement (.lsa n) := rfl
theorem lsd (n : BitVec 7) : Statement (.lsd n) := rfl
theorem rla (n : BitVec 7) : Statement (.rla n) := rfl
theorem rld (d8 : Bool) (n : BitVec 7) : Statement (.rld d8 n) := rfl
theorem lla (n : BitVec 7) : Statement (.lla n) := rfl
theorem lld (n : BitVec 7) : Statement (.lld n) := rfl
theorem csa (n : BitVec 7) : Statement (.csa n) := rfl
theorem csd (n : BitVec 7) : Statement (.csd n) := rfl
theorem trn (n : BitVec 7) : Statement (.trn n) := rfl
theorem nrm (n : BitVec 7) : Statement (.nrm n) := rfl
theorem tal (n : BitVec 7) : Statement (.tal n) := rfl
theorem nop (x : BitVec 3) (d8 : Bool) : Statement (.nop x d8) := rfl
theorem sst (u : BitVec 7) : Statement (.sst u) := rfl
theorem lst (u : BitVec 7) : Statement (.lst u) := rfl
theorem xio (f : XioFunction) (c : Bool) (k : Bool) (ed : BitVec 6) : Statement (.xio f c k ed) := by
  cases f with
  | output src => exact source src c k ed
  | outputBit => rfl
  | input dst => exact dest dst c k ed
  | control => rfl
theorem internalTest (src : XioSource) : Statement (.internalTest src) := source src _ _ _
theorem internalSet (src : XioSource) : Statement (.internalSet src) := source src _ _ _
theorem internalInput (dst : XioDest) : Statement (.internalInput dst) := dest dst _ _ _
theorem pin (x : Modifier) (n : BitVec 5) (w2 : Word) : Statement (.pin x n w2) := rfl
theorem mov (dest : BitVec 5) (source : BitVec 3) : Statement (.mov dest source) := rfl
theorem cmp (dest : BitVec 5) (source : BitVec 3) : Statement (.cmp dest source) := rfl
theorem mao (dest : BitVec 5) (source : BitVec 3) : Statement (.mao dest source) := rfl
theorem neg (dest : BitVec 5) (source : BitVec 3) : Statement (.neg dest source) := rfl

end Sys2Proof.Laws.EncodeLength
end

