-- ==== Sys2Proof/Laws/SpecConfiguration.lean ====
section
/-! SUPPORT. The running machine extends the spec's own configuration (`00_scope.md` rule R8 at its defaults): wherever the
latter answers a next state, `exec` and `step` answer the same one. -/

namespace Sys2Proof.Machine

/-- Whatever value one part of a meaning has, the other has too. -/
def Keeps {α : Type} (r r' : Except Stop α) : Prop := ∀ v, r = .ok v → r' = .ok v

theorem Keeps.refl {α : Type} (r : Except Stop α) : Keeps r r := fun _ h => h

theorem Keeps.bind {α β : Type} {r r' : Except Stop α} {k k' : α → Except Stop β} (h : Keeps r r')
    (hk : ∀ v, Keeps (k v) (k' v)) : Keeps (r.bind k) (r'.bind k') := by
  intro b hb
  obtain ⟨v, hv, hb⟩ := bind_eq_ok.1 hb
  exact bind_eq_ok.2 ⟨v, h v hv, hk v b hb⟩

/-- Whatever next state one answer is, the other is too. -/
def Continues (r r' : Answer) : Prop := ∀ t, r = .next t → r' = .next t

theorem Continues.refl (r : Answer) : Continues r r := fun _ h => h

theorem Continues.refused (x : Refusal) (r : Answer) : Continues (.refused x) r := fun _ h => by cases h

theorem Continues.withValue {α : Type} {r r' : Except Stop α} {k k' : α → Answer} (h : Keeps r r')
    (hk : ∀ v, Continues (k v) (k' v)) : Continues (withValue r k) (withValue r' k') := by
  intro t ht
  obtain ⟨v, hv, ht⟩ := withValue_eq_next.1 ht
  exact withValue_eq_next.2 ⟨v, h v hv, hk v t ht⟩

-- Operands.

theorem signedRow_keeps (base : Word) (d : BitVec 8) : Keeps (signedRow base d specParameters) (signedRow base d) := by
  intro v h
  unfold signedRow at h ⊢
  split at h
  · next hd => simpa [hd] using h
  · cases h

theorem addressIn_keeps (iw : Word) : Keeps (addressIn iw specParameters) (addressIn iw) := by
  intro v h
  unfold addressIn at h
  split at h
  · cases h
  · rw [← h]; simp

theorem State.indirectVia_keeps (s : State) (v : Word) : Keeps (s.indirectVia v specParameters) (s.indirectVia v) :=
  .bind (.refl _) fun _ => .bind (.refl _) fun iw => addressIn_keeps iw

theorem State.shortAddress_keeps (s : State) (here : Addr) (x : Modifier) (d : BitVec 8) :
    Keeps (s.shortAddress here x d specParameters) (s.shortAddress here x d) := by
  cases x
  case indirect => exact .bind (signedRow_keeps _ _) s.indirectVia_keeps
  case indirectX1 => exact .bind (signedRow_keeps _ _) s.indirectVia_keeps
  case x1 => exact .bind (signedRow_keeps _ _) fun _ => .refl _
  case x4 => exact .bind (signedRow_keeps _ _) fun _ => .refl _
  all_goals exact .refl _

theorem State.longAddress_keeps (s : State) (x : Modifier) (w2 : Word) :
    Keeps (s.longAddress x w2 specParameters) (s.longAddress x w2) := by
  cases x
  case indirect => exact s.indirectVia_keeps _
  case indirectX1 => exact s.indirectVia_keeps _
  all_goals exact .refl _

theorem State.effectiveAddress_keeps (s : State) (at_ : Site) (o : Form) :
    Keeps (s.effectiveAddress at_ o specParameters) (s.effectiveAddress at_ o) := by
  cases o with
  | short x d => exact s.shortAddress_keeps _ _ _
  | long x g w2 => exact s.longAddress_keeps _ _

theorem State.locationOf_keeps (s : State) (at_ : Site) (o : Form) :
    Keeps (s.locationOf at_ o specParameters) (s.locationOf at_ o) := by
  cases o with
  | short x d => exact s.shortAddress_keeps _ _ _
  | long x g w2 =>
    cases x <;> first | exact .refl _ | exact s.longAddress_keeps .indirect w2 | exact s.longAddress_keeps .indirectX1 w2

theorem State.operandOf_keeps (s : State) (at_ : Site) (o : Form) :
    Keeps (s.operandOf at_ o specParameters) (s.operandOf at_ o) := by
  cases o with
  | short x d => cases x <;> first | exact .refl _ | exact .bind (s.shortAddress_keeps _ _ _) fun _ => .refl _
  | long x g w2 => cases x <;> first | exact .refl _ | exact .bind (s.longAddress_keeps _ _) fun _ => .refl _

theorem State.doubleOperandOf_keeps (s : State) (at_ : Site) (o : Form) :
    Keeps (s.doubleOperandOf at_ o specParameters) (s.doubleOperandOf at_ o) :=
  .bind (s.effectiveAddress_keeps at_ o) fun _ => .refl _

theorem State.sourceWord_keeps (s : State) (src : XioSource) :
    Keeps (s.sourceWord src specParameters) (s.sourceWord src) := by
  cases src with
  | next data => exact .refl _
  | via address => exact .bind (addressIn_keeps address) fun _ => .refl _
  | a => exact .refl _

theorem State.destLocation_keeps (s : State) (at_ : Site) (dst : XioDest) :
    Keeps (s.destLocation at_ dst specParameters) (s.destLocation at_ dst) := by
  cases dst with
  | next old => exact .refl _
  | via address => exact .bind (addressIn_keeps address) fun _ => .refl _
  | a => exact .refl _

-- Skips.

theorem skip_continues (at_ : Site) (s : State) : Continues (skip at_ s specParameters) (skip at_ s) := by
  intro t h
  obtain ⟨n, hn, h⟩ := withValue_eq_next.1 h
  split at h
  · cases h
  · next hs =>
    have hw : isTwoWord (s.word n) = false := by simpa using hs
    rw [skip_own, hn]
    simpa [skipLength, hw] using h

theorem skipIf_continues (b : Bool) (at_ : Site) (s : State) :
    Continues (skipIf b at_ s specParameters) (skipIf b at_ s) := by
  cases b
  · exact .refl _
  · exact skip_continues at_ s

-- The instructions.

/-- Every instruction but XEC and SMM. -/
theorem performOne_continues (i : Instr) (at_ : Site) (s : State) :
    Continues (performOne i at_ s specParameters) (performOne i at_ s) := by
  have read {k k' : Word → Answer} (o : Form) (h : ∀ v, Continues (k v) (k' v)) :
      Continues (withValue (s.operandOf at_ o specParameters) k) (withValue (s.operandOf at_ o) k') :=
    .withValue (s.operandOf_keeps at_ o) h
  have address {k k' : Addr → Answer} (o : Form) (h : ∀ m, Continues (k m) (k' m)) :
      Continues (withValue (s.effectiveAddress at_ o specParameters) k) (withValue (s.effectiveAddress at_ o) k') :=
    .withValue (s.effectiveAddress_keeps at_ o) h
  have located {k k' : Addr → Answer} (o : Form) (h : ∀ m, Continues (k m) (k' m)) :
      Continues (withValue (s.locationOf at_ o specParameters) k) (withValue (s.locationOf at_ o) k') :=
    .withValue (s.locationOf_keeps at_ o) h
  have double {k k' : DWord → Answer} (o : Form) (h : ∀ v, Continues (k v) (k' v)) :
      Continues (withValue (s.doubleOperandOf at_ o specParameters) k) (withValue (s.doubleOperandOf at_ o) k') :=
    .withValue (s.doubleOperandOf_keeps at_ o) h
  have sourced {k k' : Word → Answer} (src : XioSource) (h : ∀ v, Continues (k v) (k' v)) :
      Continues (withValue (s.sourceWord src specParameters) k) (withValue (s.sourceWord src) k') :=
    .withValue (s.sourceWord_keeps src) h
  have sunk {k k' : Option Addr → Answer} (dst : XioDest) (h : ∀ m, Continues (k m) (k' m)) :
      Continues (withValue (s.destLocation at_ dst specParameters) k) (withValue (s.destLocation at_ dst) k') :=
    .withValue (s.destLocation_keeps at_ dst) h
  have added (k : BitVec 3) (o : Form) : Continues (addToMemory k o at_ s specParameters) (addToMemory k o at_ s) :=
    located o fun _ => .withValue (.refl _) fun _ => .withValue (.refl _) fun _ => skipIf_continues _ _ _
  cases i
  case lda | lde | ldx1 | ldx2 | ldx4 | add | sub | mpy | lor | and | xor => exact read _ fun _ => .refl _
  case dla | dad => exact double _ fun _ => .refl _
  case sta | ste | stx1 | stx2 | stx4 | stz => exact located _ fun _ => .refl _
  case dst | jmp | jci | jlz | jez | jgz | rtj => exact address _ fun _ => .refl _
  case kal | kaq | kah => exact read _ fun _ => skipIf_continues _ _ _
  case imt => exact added _ _
  case amt0 | amt2 | amt3 | amt4 | amt5 | amt6 | amt7 => exact added _ _
  case dvd o =>
    refine read o fun v => ?_
    show Continues (match defaultDvdFn s.ae v with
      | some (q, r) => skip at_ _ specParameters
      | none => _) (match defaultDvdFn s.ae v with
      | some (q, r) => skip at_ _
      | none => _)
    split
    · exact skip_continues _ _
    · exact .refl _
  case xio f bit8 k ed =>
    cases f with
    | output src => exact sourced src fun _ => skipIf_continues _ _ _
    | input dst => exact sunk dst fun _ => skipIf_continues _ _ _
    | outputBit => exact skipIf_continues _ _ _
    | control => exact skipIf_continues _ _ _
  case internalTest src => exact sourced src fun _ => skipIf_continues _ _ _
  case internalSet src => exact sourced src fun _ => .refl _
  case internalInput dst => exact sunk dst fun _ => .refl _
  case axd1 | axd2 | axd4 | jtb => exact .refused _ _
  all_goals exact .refl _

theorem performRemote_continues (i : Instr) (at_ : Site) (s : State) :
    Continues (performRemote i at_ s specParameters) (performRemote i at_ s) := by
  simpa using performOne_continues i at_ s

theorem runRemote_continues (m : Addr) (at_ : Site) (s : State) :
    Continues (runRemote m at_ s specParameters) (runRemote m at_ s) := by
  refine .withValue (.refl _) fun i => ?_
  show Continues (if admitted i then _ else _) (if admitted i then _ else _)
  split
  · exact performRemote_continues i _ _
  · exact .refused _ _

theorem perform_continues (i : Instr) (at_ : Site) (s : State) :
    Continues (perform i at_ s specParameters) (perform i at_ s) := by
  cases i
  case xec o =>
    simp only [perform, withOtherOv_specParameters, withOtherOv_parameters]
    exact .withValue (s.effectiveAddress_keeps at_ o) fun _ => runRemote_continues _ _ _
  case smm w2 =>
    simp only [perform, withOtherOv_specParameters, withOtherOv_parameters]
    exact .withValue (.refl _) fun _ => .withValue (.refl _) fun iw =>
      .withValue (addressIn_keeps iw) fun _ => runRemote_continues _ _ _
  all_goals
    unfold perform
    exact performRemote_continues _ at_ s

/-- Where the spec's own configuration executes an instruction, `exec` does the same. -/
theorem exec_extends_spec {i : Instr} {s t : State} (h : execWith specParameters i s = .next t) : exec i s = .next t := by
  rw [exec_eq_execWith]
  exact perform_continues i _ s t h

/-- Where the spec's own configuration steps, `step` does the same. -/
theorem step_extends_spec {s t : State} (h : stepWith specParameters s = .next t) : step s = .next t := by
  rw [step_eq_stepWith]
  unfold stepWith at h ⊢
  split at h
  · cases h
  · next hi =>
    rw [if_neg hi]
    obtain ⟨i, hf, h⟩ := withValue_eq_next.1 h
    obtain ⟨u, hu, rfl⟩ := ticked_eq_next.1 h
    exact withValue_eq_next.2 ⟨i, hf, ticked_eq_next.2 ⟨u, perform_continues i _ s u hu, rfl⟩⟩

end Sys2Proof.Machine
end

