-- ==== Sys2Proof/Tests/Slice0.lean ====
section
/-! SUPPORT. Our own tests and the witnesses of the statements' hypotheses.

The expected result of a test named `test_V…` or `test_X…` is that row of `95_test_vectors.md` part 2; that of any other test
is calculated by hand from the rule named above it. Each step test is one step. -/

namespace Sys2Proof.Tests

open Sys2Proof Sys2Proof.Machine

/-- The reset state with words at addresses. -/
def image (cells : List (Nat × Nat)) : State :=
  cells.foldl (fun s c => s.putWord (BitVec.ofNat 15 c.1) (BitVec.ofNat 16 c.2)) State.reset

/-- The reset state with these words at P on, and more words elsewhere. -/
def starts (words : List Nat) (more : List (Nat × Nat)) : State :=
  image ((List.range words.length).zipWith (fun i w => (0o1000 + i, w)) words ++ more)

/-- The step answers a next state that the check holds of. -/
def goesOn (s : State) (p : State → Bool) : Bool :=
  match step s with
  | .next t => p t
  | .fault _ => false
  | .refused _ => false

/-- The step is refused with this reason. -/
def refusedWith (s : State) (r : Refusal) : Bool :=
  match step s with
  | .next _ => false
  | .fault _ => false
  | .refused r' => r' == r

/-- The step faults with this reason. -/
def faultsWith (s : State) (f : Fault) : Bool :=
  match step s with
  | .next _ => false
  | .fault f' => f' == f
  | .refused _ => false

/-- The step with these parameters answers a next state that the check holds of. -/
def goesOnUnder (c : Parameters) (s : State) (p : State → Bool) : Bool :=
  match stepWith c s with
  | .next t => p t
  | .fault _ => false
  | .refused _ => false

/-- The step with these parameters is refused with this reason. -/
def refusedUnder (c : Parameters) (s : State) (r : Refusal) : Bool :=
  match stepWith c s with
  | .next _ => false
  | .fault _ => false
  | .refused r' => r' == r

/-- The words decode to the instruction. -/
def decodesTo (w w2 : Word) (i : Instr) : Bool :=
  match decode w w2 with
  | .ok j => j == i
  | .error _ => false

/-- The word decodes to nothing, for this reason. -/
def undecodable (w : Word) (e : DecodeError) : Bool :=
  match decode w 0#16 with
  | .ok _ => false
  | .error e' => e' == e

-- WellFormed refuses, one ill-formed term for each check.

theorem test_wellFormed_refuses_lda_designator : (Instr.lda (.long .base 5#3 0#16)).wellFormed = false := by decide
theorem test_wellFormed_refuses_lde_designator : (Instr.lde (.long .base 4#3 0#16)).wellFormed = false := by decide
theorem test_wellFormed_refuses_sta_designator : (Instr.sta (.long .base 7#3 0#16)).wellFormed = false := by decide
theorem test_wellFormed_refuses_ste_designator : (Instr.ste (.long .base 0#3 0#16)).wellFormed = false := by decide
theorem test_wellFormed_refuses_imt_designator : (Instr.imt (.long .base 2#3 0#16)).wellFormed = false := by decide
theorem test_wellFormed_refuses_dla_designator : (Instr.dla (.long .base 1#3 0#16)).wellFormed = false := by decide
theorem test_wellFormed_refuses_dst_designator : (Instr.dst (.long .base 5#3 0#16)).wellFormed = false := by decide
theorem test_wellFormed_refuses_xec_designator : (Instr.xec (.long .base 1#3 0#16)).wellFormed = false := by decide
theorem test_wellFormed_refuses_short_seven_location : (Instr.sta (.short .literal 1#8)).wellFormed = false := by decide
theorem test_wellFormed_refuses_short_seven_address : (Instr.jmp (.short .literal 1#8)).wellFormed = false := by decide
theorem test_wellFormed_refuses_long_seven_address : (Instr.jmp (.long .literal 0#3 1#16)).wellFormed = false := by decide
theorem test_wellFormed_refuses_long_seven_double : (Instr.dla (.long .literal 0#3 1#16)).wellFormed = false := by decide
theorem test_wellFormed_refuses_seven_protect : (Instr.cls .literal 1#16).wellFormed = false := by decide
theorem test_wellFormed_refuses_seven_pin : (Instr.pin .literal 0#5 1#16).wellFormed = false := by decide
theorem test_wellFormed_refuses_count_zero : (Instr.rsa true 0#7).wellFormed = false := by decide
theorem test_wellFormed_refuses_lsa_count_zero : (Instr.lsa 0#7).wellFormed = false := by decide
theorem test_wellFormed_refuses_device_zero : (Instr.xio .control true true 0#6).wellFormed = false := by decide

-- Decode: a word of every constructor, put together from `match` and the fields of `opcode_table.json` or taken from the
-- examples of the rules.

theorem test_decode_load :
    (decodesTo 0o040005#16 0#16 (.lda (.short .base 5#8)) &&
      decodesTo 0o174104#16 0o2000#16 (.lda (.long .base 4#3 0o2000#16)) &&
      decodesTo 0o174106#16 0o2000#16 (.lda (.long .base 6#3 0o2000#16)) &&
      decodesTo 0o047411#16 0#16 (.lde (.short .literal 9#8)) &&
      decodesTo 0o174115#16 0o121#16 (.lde (.long .base 5#3 0o121#16)) &&
      decodesTo 0o174501#16 0o2000#16 (.ldx1 false .x1 0o2000#16) &&
      decodesTo 0o174112#16 0o2000#16 (.ldx2 true .base 0o2000#16) &&
      decodesTo 0o177503#16 0o300#16 (.ldx4 false .literal 0o300#16) &&
      decodesTo 0o060003#16 0#16 (.dla (.short .base 3#8)) &&
      decodesTo 0o175140#16 0o2000#16 (.dla (.long .x2 0#3 0o2000#16))) = true := by decide

theorem test_decode_protect :
    (decodesTo 0o174144#16 0o500#16 (.cls .base 0o500#16) &&
      decodesTo 0o174146#16 0o500#16 (.cld .base 0o500#16) &&
      decodesTo 0o174145#16 0o500#16 (.prs .base 0o500#16) &&
      decodesTo 0o175547#16 0o500#16 (.prd .x1x2 0o500#16)) = true := by decide

theorem test_decode_store :
    (decodesTo 0o110020#16 0#16 (.sta (.short .base 0o20#8)) &&
      decodesTo 0o177624#16 0#16 (.sta (.long .literal 4#3 0#16)) &&
      decodesTo 0o115400#16 0#16 (.ste (.short .x1x2 0#8)) &&
      decodesTo 0o174235#16 0o2000#16 (.ste (.long .base 5#3 0o2000#16)) &&
      decodesTo 0o100010#16 0#16 (.dst (.short .base 8#8)) &&
      decodesTo 0o174206#16 0o2000#16 (.dst (.long .base 6#3 0o2000#16)) &&
      decodesTo 0o174221#16 0o130#16 (.stx1 false .base 0o130#16) &&
      decodesTo 0o174232#16 0o130#16 (.stx2 true .base 0o130#16) &&
      decodesTo 0o174233#16 0o2000#16 (.stx4 true .base 0o2000#16) &&
      decodesTo 0o174220#16 0o132#16 (.stz false .base 0o132#16)) = true := by decide

theorem test_decode_arithmetic :
    (decodesTo 0o067401#16 0#16 (.add (.short .literal 1#8)) &&
      decodesTo 0o177550#16 0o100000#16 (.add (.long .literal 0#3 0o100000#16)) &&
      decodesTo 0o123401#16 0#16 (.sub (.short .literal 1#8)) &&
      decodesTo 0o174240#16 0o2000#16 (.sub (.long .base 0#3 0o2000#16)) &&
      decodesTo 0o073401#16 0#16 (.mpy (.short .literal 1#8)) &&
      decodesTo 0o177560#16 0o177777#16 (.mpy (.long .literal 0#3 0o177777#16)) &&
      decodesTo 0o104002#16 0#16 (.dad (.short .base 2#8)) &&
      decodesTo 0o174210#16 0o2000#16 (.dad (.long .base 0#3 0o2000#16)) &&
      decodesTo 0o143402#16 0#16 (.dvd (.short .literal 2#8)) &&
      decodesTo 0o177700#16 0o177776#16 (.dvd (.long .literal 0#3 0o177776#16)) &&
      decodesTo 0o154401#16 0#16 (.axd1 1#8) &&
      decodesTo 0o155377#16 0#16 (.axd2 0xFF#8) &&
      decodesTo 0o157001#16 0#16 (.axd4 1#8)) = true := by decide

theorem test_decode_logical :
    (decodesTo 0o053417#16 0#16 (.lor (.short .literal 0o17#8)) &&
      decodesTo 0o174120#16 0o2000#16 (.lor (.long .base 0#3 0o2000#16)) &&
      decodesTo 0o054001#16 0#16 (.and (.short .base 1#8)) &&
      decodesTo 0o177530#16 0o377#16 (.and (.long .literal 0#3 0o377#16)) &&
      decodesTo 0o147777#16 0#16 (.xor (.short .literal 0xFF#8)) &&
      decodesTo 0o174317#16 0o2000#16 (.xor (.long .base 7#3 0o2000#16))) = true := by decide

theorem test_decode_jump :
    (decodesTo 0o000374#16 0#16 (.jmp (.short .base 0xFC#8)) &&
      decodesTo 0o176000#16 0o2000#16 (.jmp (.long .indirect 0#3 0o2000#16)) &&
      decodesTo 0o004002#16 0#16 (.jci (.short .base 2#8)) &&
      decodesTo 0o174010#16 0o2000#16 (.jci (.long .base 0#3 0o2000#16)) &&
      decodesTo 0o034003#16 0#16 (.jlz (.short .base 3#8)) &&
      decodesTo 0o174070#16 0o2000#16 (.jlz (.long .base 0#3 0o2000#16)) &&
      decodesTo 0o030003#16 0#16 (.jez (.short .base 3#8)) &&
      decodesTo 0o174060#16 0o2000#16 (.jez (.long .base 0#3 0o2000#16)) &&
      decodesTo 0o024376#16 0#16 (.jgz (.short .base 0xFE#8)) &&
      decodesTo 0o174050#16 0o2000#16 (.jgz (.long .base 0#3 0o2000#16)) &&
      decodesTo 0o010020#16 0#16 (.rtj (.short .base 0o20#8)) &&
      decodesTo 0o174020#16 0o2000#16 (.rtj (.long .base 0#3 0o2000#16)) &&
      decodesTo 0o020001#16 0#16 (.jtb (.short .base 1#8)) &&
      decodesTo 0o174040#16 0o2000#16 (.jtb (.long .base 0#3 0o2000#16))) = true := by decide

theorem test_decode_execute :
    (decodesTo 0o015000#16 0#16 (.xec (.short .x2 0#8)) &&
      decodesTo 0o174030#16 0o2000#16 (.xec (.long .base 0#3 0o2000#16)) &&
      decodesTo 0o174037#16 0o2000#16 (.xec (.long .base 7#3 0o2000#16)) &&
      decodesTo 0o176031#16 1#16 (.smm 1#16)) = true := by decide

theorem test_decode_skip :
    (decodesTo 0o127412#16 0#16 (.kal (.short .literal 10#8)) &&
      decodesTo 0o174250#16 0o2000#16 (.kal (.long .base 0#3 0o2000#16)) &&
      decodesTo 0o133412#16 0#16 (.kaq (.short .literal 10#8)) &&
      decodesTo 0o174260#16 0o2000#16 (.kaq (.long .base 0#3 0o2000#16)) &&
      decodesTo 0o137412#16 0#16 (.kah (.short .literal 10#8)) &&
      decodesTo 0o177670#16 0o177777#16 (.kah (.long .literal 0#3 0o177777#16)) &&
      decodesTo 0o074010#16 0#16 (.imt (.short .base 8#8)) &&
      decodesTo 0o174171#16 0o2000#16 (.imt (.long .base 1#3 0o2000#16)) &&
      decodesTo 0o174170#16 0o2000#16 (.amt0 .base 0o2000#16) &&
      decodesTo 0o174172#16 0o2000#16 (.amt2 .base 0o2000#16) &&
      decodesTo 0o174173#16 0o2000#16 (.amt3 .base 0o2000#16) &&
      decodesTo 0o174174#16 0o2000#16 (.amt4 .base 0o2000#16) &&
      decodesTo 0o174175#16 0o120#16 (.amt5 .base 0o120#16) &&
      decodesTo 0o174176#16 0o2000#16 (.amt6 .base 0o2000#16) &&
      decodesTo 0o177577#16 0o2000#16 (.amt7 .literal 0o2000#16)) = true := by decide

theorem test_decode_shift :
    (decodesTo 0o160003#16 0#16 (.rsa false 3#7) &&
      decodesTo 0o160203#16 0#16 (.rsa true 3#7) &&
      decodesTo 0o161004#16 0#16 (.rsd false 4#7) &&
      decodesTo 0o162017#16 0#16 (.lsa 15#7) &&
      decodesTo 0o163001#16 0#16 (.lsd 1#7) &&
      decodesTo 0o160404#16 0#16 (.rla 4#7) &&
      decodesTo 0o161610#16 0#16 (.rld true 8#7) &&
      decodesTo 0o162401#16 0#16 (.lla 1#7) &&
      decodesTo 0o163404#16 0#16 (.lld 4#7) &&
      decodesTo 0o162621#16 0#16 (.csa 17#7) &&
      decodesTo 0o163620#16 0#16 (.csd 16#7) &&
      decodesTo 0o160601#16 0#16 (.trn 1#7) &&
      decodesTo 0o163201#16 0#16 (.nrm 1#7) &&
      decodesTo 0o162201#16 0#16 (.tal 1#7) &&
      decodesTo 0o160000#16 0#16 (.nop 0#3 false) &&
      decodesTo 0o163200#16 0#16 (.nop 6#3 true)) = true := by decide

theorem test_decode_status :
    (decodesTo 0o157400#16 0#16 (.sst 0#7) &&
      decodesTo 0o157401#16 0#16 (.lst 0#7)) = true := by decide

theorem test_decode_input_output :
    (decodesTo 0o170112#16 0o101#16 (.xio (.output (.next 0o101#16)) false true 10#6) &&
      decodesTo 0o170712#16 0o101#16 (.xio (.output (.via 0o101#16)) true true 10#6) &&
      decodesTo 0o171303#16 0#16 (.xio .outputBit true true 3#6) &&
      decodesTo 0o171705#16 0#16 (.xio (.output .a) true true 5#6) &&
      decodesTo 0o172105#16 7#16 (.xio (.input (.next 7#16)) false true 5#6) &&
      decodesTo 0o172605#16 7#16 (.xio (.input (.via 7#16)) true false 5#6) &&
      decodesTo 0o173105#16 0#16 (.xio .control false true 5#6) &&
      decodesTo 0o173477#16 0#16 (.xio (.input .a) false false 0o77#6) &&
      decodesTo 0o170200#16 0o400#16 (.internalTest (.next 0o400#16)) &&
      decodesTo 0o171600#16 0#16 (.internalTest .a) &&
      decodesTo 0o170700#16 0o400#16 (.internalSet (.via 0o400#16)) &&
      decodesTo 0o171700#16 0#16 (.internalSet .a) &&
      decodesTo 0o172300#16 0#16 (.internalInput (.next 0#16)) &&
      decodesTo 0o173700#16 0#16 (.internalInput .a)) = true := by decide

theorem test_decode_miscellaneous :
    (decodesTo 0o174343#16 0o1000#16 (.pin .base 3#5 0o1000#16) &&
      decodesTo 0o166004#16 0#16 (.mov 0b10000#5 4#3) &&
      decodesTo 0o164300#16 0#16 (.mov 3#5 0#3) &&
      decodesTo 0o164215#16 0#16 (.cmp 2#5 5#3) &&
      decodesTo 0o166021#16 0#16 (.mao 0b10000#5 1#3) &&
      decodesTo 0o164134#16 0#16 (.neg 1#5 4#3)) = true := by decide

-- Decode refuses, by name (`30_encoding.md` rules R111 and R121).

theorem test_V28_V29_V42_V45_unlisted_designators :
    (undecodable 0o174100#16 .designator && undecodable 0o174105#16 .designator && undecodable 0o174225#16 .designator &&
      undecodable 0o174200#16 .designator) = true := by decide
theorem test_V32_V36_V78_V79_excluded_seven :
    (undecodable 0o177540#16 .excludedLiteral && undecodable 0o113403#16 .excludedLiteral &&
      undecodable 0o003401#16 .excludedLiteral && undecodable 0o177400#16 .excludedLiteral) = true := by decide
theorem test_V186_V187_V188_internal_xio :
    (undecodable 0o170100#16 .internalXio && undecodable 0o171300#16 .internalXio &&
      undecodable 0o173600#16 .internalXio) = true := by decide
-- R121 (a), (b), (c), (d): operation 32, operation 33 with X = 0, operation 35 with bit 6, long operation 33.
theorem test_unlisted_operations :
    (undecodable 0o150000#16 .shortOperation32 && undecodable 0o154000#16 .statusGroupModifier &&
      undecodable 0o164044#16 .movBit6 && undecodable 0o174330#16 .longOperation) = true := by decide
theorem test_bytes_high_first : decodeTableWord 16 0o040005 = some (.lda (.short .base 5#8)) := by decide
theorem test_table_word_second_word : decodeTableWord 32 0x0051F84D = some (.lde (.long .base 5#3 0o121#16)) := by decide

-- Steps.

theorem test_V1_lda_relative : goesOn (starts [0o040002] [(0o1002, 0x1111)])
    (fun t => t.a == 0x1111 && t.p == 0o1001) = true := by decide
theorem test_V3_lda_x2 : goesOn { starts [0o041375] [(0o2000, 0x3333)] with x2 := 0x0403 }
    (fun t => t.a == 0x3333 && t.p == 0o1001) = true := by decide
theorem test_V23_lde_short_literal : goesOn (starts [0o047411] [])
    (fun t => t.e == 9 && t.a == 0 && t.p == 0o1001) = true := by decide
theorem test_V24_lde_long : goesOn (starts [0o174117, 0o002000] [(0o2000, 0xBEEF)])
    (fun t => t.e == 0xBEEF && t.p == 0o1002) = true := by decide
theorem test_V25_ldx1 : goesOn { starts [0o174101, 0o002000] [(0o2000, 0x0011)] with x1 := 5 }
    (fun t => t.x1 == 0x0011 && t.p == 0o1002) = true := by decide
theorem test_V26_ldx2_operation_11 : goesOn (starts [0o174112, 0o002000] [(0o2000, 0x0022)])
    (fun t => t.x2 == 0x0022 && t.p == 0o1002) = true := by decide
theorem test_V27_ldx4_literal : goesOn (starts [0o177503, 0o177776] [])
    (fun t => t.x4 == 0xFFFE && t.p == 0o1002) = true := by decide
theorem test_V30_dla : goesOn (starts [0o060004] [(0o1004, 0x1234), (0o1005, 0x5678)])
    (fun t => t.a == 0x1234 && t.e == 0x5678 && t.p == 0o1001) = true := by decide
theorem test_V35_sta : goesOn { starts [0o110003] [] with a := 0xCAFE }
    (fun t => t.word 0o1003 == 0xCAFE && t.p == 0o1001) = true := by decide
theorem test_V37_sta_own_second_word : goesOn { starts [0o177624, 0] [] with a := 0xCAFE }
    (fun t => t.word 0o1001 == 0xCAFE && t.p == 0o1002) = true := by decide
theorem test_V38_ste : goesOn { starts [0o174235, 0o002000] [] with e := 0x0E0E, a := 1 }
    (fun t => t.word 0o2000 == 0x0E0E && t.p == 0o1002) = true := by decide
theorem test_V39_stx1 : goesOn { starts [0o174221, 0o002000] [] with x1 := 0x0101 }
    (fun t => t.word 0o2000 == 0x0101 && t.p == 0o1002) = true := by decide
theorem test_stx2_indexed_by_itself : goesOn { starts [0o175222, 0o000020] [] with x2 := 0x0100 }
    (fun t => t.word 0o420 == 0x0100 && t.p == 0o1002) = true := by decide
theorem test_V40_stx4 : goesOn { starts [0o174233, 0o002000] [] with x4 := 0x0404 }
    (fun t => t.word 0o2000 == 0x0404 && t.p == 0o1002) = true := by decide
theorem test_V41_stz : goesOn (starts [0o174220, 0o002000] [(0o2000, 0xFFFF)])
    (fun t => t.word 0o2000 == 0 && t.p == 0o1002) = true := by decide
theorem test_V43_dst : goesOn { starts [0o100002] [] with a := 0x0A0A, e := 0x0E0E }
    (fun t => t.word 0o1002 == 0x0A0A && t.word 0o1003 == 0x0E0E && t.p == 0o1001) = true := by decide
theorem test_V46_add_overflow : goesOn { starts [0o067401] [] with a := 0x7FFF }
    (fun t => t.a == 0x8000 && t.ov && t.p == 0o1001) = true := by decide
theorem test_V49_add_keeps_ov : goesOn { starts [0o177550, 0o177777] [] with a := 5, ov := true }
    (fun t => t.a == 4 && t.ov && t.p == 0o1002) = true := by decide
theorem test_V51_sub_overflow : goesOn (starts [0o177640, 0o100000] [])
    (fun t => t.a == 0x8000 && t.ov && t.p == 0o1002) = true := by decide
theorem test_V52_sub_no_overflow : goesOn (starts [0o123401] [])
    (fun t => t.a == 0xFFFF && !t.ov && t.p == 0o1001) = true := by decide
theorem test_V53_mpy_minus_one : goesOn { starts [0o177560, 0o177777] [] with a := 0xFFFF, e := 0x1234 }
    (fun t => t.a == 0 && t.e == 1 && t.p == 0o1002) = true := by decide
theorem test_V54_mpy_extreme : goesOn { starts [0o177560, 0o100000] [] with a := 0x8000 }
    (fun t => t.a == 0x4000 && t.e == 0 && t.p == 0o1002) = true := by decide
theorem test_V58_dad_carry : goesOn { starts [0o174210, 0o002000] [(0o2001, 1)] with e := 0xFFFF }
    (fun t => t.a == 1 && t.e == 0 && !t.ov && t.p == 0o1002) = true := by decide
theorem test_V59_dad_overflow : goesOn { starts [0o174210, 0o002000] [(0o2001, 1)] with a := 0x7FFF, e := 0xFFFF }
    (fun t => t.a == 0x8000 && t.e == 0 && t.ov) = true := by decide
theorem test_V62_dvd_truncates : goesOn { starts [0o143402, 0o160000] [] with a := 0xFFFF, e := 0xFFF9 }
    (fun t => t.a == 0xFFFF && t.e == 0xFFFD && t.p == 0o1002) = true := by decide
theorem test_V67_dvd_by_zero_does_not_skip : goesOn { starts [0o143400, 0o160000] [] with e := 7, x1 := 3 }
    (fun t => t.x1 == 3 && t.p == 0o1001) = true := by decide
theorem test_axd1_negative : goesOn { starts [0o154777] [] with x1 := 5, x2 := 7 }
    (fun t => t.x1 == 4 && t.x2 == 7) = true := by decide
theorem test_axd2 : goesOn { starts [0o155001] [] with x2 := 0xFFFF }
    (fun t => t.x2 == 0) = true := by decide
theorem test_axd4 : goesOn { starts [0o157005] [] with x4 := 5 }
    (fun t => t.x4 == 10) = true := by decide
theorem test_V70_lor : goesOn { starts [0o053417] [] with e := 0x00F0, a := 0xAAAA }
    (fun t => t.a == 0x00FF && t.e == 0x00F0 && t.p == 0o1001) = true := by decide
theorem test_V71_and : goesOn { starts [0o177530, 0o000377] [] with e := 0x1234, a := 0xAAAA }
    (fun t => t.a == 0x0034 && t.p == 0o1002) = true := by decide
theorem test_V72_xor : goesOn { starts [0o147777] [] with e := 0x0F0F, a := 0xAAAA }
    (fun t => t.a == 0x0FF0 && t.p == 0o1001) = true := by decide
theorem test_V75_jmp_back : goesOn (starts [0o000374] [])
    (fun t => t.p == 0o774) = true := by decide
theorem test_V77_jmp_indirect : goesOn (starts [0o176000, 0o002000] [(0o2000, 0x072E)])
    (fun t => t.p == 0o3456) = true := by decide
theorem test_V80_jci : goesOn { starts [0o004002] [] with intr := true, spio := false, mm := true }
    (fun t => t.p == 0o1002 && !t.intr && t.mm) = true := by decide
theorem test_V84_jlz : goesOn { starts [0o034003] [] with a := 0x8000 }
    (fun t => t.p == 0o1003) = true := by decide
theorem test_V82_jlz_not_taken : goesOn (starts [0o034003] [])
    (fun t => t.p == 0o1001) = true := by decide
theorem test_V87_jez : goesOn (starts [0o030003] [])
    (fun t => t.p == 0o1003) = true := by decide
theorem test_V86_jez_not_taken : goesOn { starts [0o030003] [] with a := 0xFFFF }
    (fun t => t.p == 0o1001) = true := by decide
theorem test_V93_jgz : goesOn { starts [0o024003] [] with a := 0x7FFF }
    (fun t => t.p == 0o1003) = true := by decide
theorem test_V90_jgz_zero : goesOn (starts [0o024003] [])
    (fun t => t.p == 0o1001) = true := by decide
theorem test_V117_rtj_short : goesOn (starts [0o010020] [])
    (fun t => t.word 0o1020 == 0x0201 && t.p == 0o1021) = true := by decide
theorem test_V118_rtj_long : goesOn (starts [0o174020, 0o002000] [])
    (fun t => t.word 0o2000 == 0x0202 && t.p == 0o2001) = true := by decide
theorem test_V97_kal_signed : goesOn { starts [0o127412, 0o160000] [] with a := 0xFFFF }
    (fun t => t.p == 0o1002) = true := by decide
theorem test_V95_kal_equal : goesOn { starts [0o127412, 0o160000] [] with a := 10 }
    (fun t => t.p == 0o1001) = true := by decide
theorem test_V99_kaq : goesOn { starts [0o133412, 0o160000] [] with a := 10 }
    (fun t => t.p == 0o1002) = true := by decide
theorem test_V106_kah_literal : goesOn (starts [0o177670, 0o177777, 0o160000] [])
    (fun t => t.p == 0o1003) = true := by decide
theorem test_V104_kah_signed : goesOn { starts [0o137412, 0o160000] [] with a := 0x8000 }
    (fun t => t.p == 0o1001) = true := by decide
theorem test_V107_imt_to_zero : goesOn (starts [0o074010, 0o160000] [(0o1010, 0xFFFF)])
    (fun t => t.word 0o1010 == 0 && !t.ov && t.p == 0o1002) = true := by decide
theorem test_V108_imt_sign_change : goesOn (starts [0o074010, 0o160000] [(0o1010, 0x7FFF)])
    (fun t => t.word 0o1010 == 0x8000 && t.p == 0o1002) = true := by decide
theorem test_V113_amt0_zero : goesOn (starts [0o174170, 0o002000, 0o160000] [])
    (fun t => t.word 0o2000 == 0 && t.p == 0o1003) = true := by decide
theorem test_V116_amt2 : goesOn (starts [0o174172, 0o002000, 0o160000] [(0o2000, 5)])
    (fun t => t.word 0o2000 == 7 && t.p == 0o1002) = true := by decide
theorem test_amt3 : goesOn (starts [0o174173, 0o002000] [(0o2000, 5)])
    (fun t => t.word 0o2000 == 8 && t.p == 0o1002) = true := by decide
theorem test_amt4_is_not_negative : goesOn (starts [0o174174, 0o002000] [(0o2000, 5)])
    (fun t => t.word 0o2000 == 9 && t.p == 0o1002) = true := by decide
theorem test_V112_amt5 : goesOn (starts [0o174175, 0o002000, 0o160000] [(0o2000, 0xFFFE)])
    (fun t => t.word 0o2000 == 3 && t.p == 0o1003) = true := by decide
theorem test_amt6 : goesOn (starts [0o174176, 0o002000] [(0o2000, 5)])
    (fun t => t.word 0o2000 == 11 && t.p == 0o1002) = true := by decide
theorem test_V115_amt7 : goesOn (starts [0o174177, 0o002000, 0o160000] [(0o2000, 0xFFF9)])
    (fun t => t.word 0o2000 == 0 && t.p == 0o1003) = true := by decide
theorem test_V121_xec_add : goesOn { starts [0o015000] [(0o2000, 0x6F05)] with x2 := 0x0400, a := 1 }
    (fun t => t.a == 6 && t.p == 0o1001) = true := by decide
theorem test_V122_xec_jmp : goesOn (starts [0o174030, 0o002000] [(0o2000, 0xF800), (0o2001, 0x0600)])
    (fun t => t.p == 0o3000) = true := by decide
theorem test_V128_smm_jmp : goesOn (starts [0o176031, 0o000001] [(1, 0x0028), (0o50, 0xF800), (0o51, 0x0400)])
    (fun t => t.mm && t.p == 0o2000) = true := by decide
theorem test_V129_smm_mov : goesOn { starts [0o176031, 0o000001] [(1, 0x0028), (0o50, 0xE880)] with a := 5 }
    (fun t => t.mm && t.a == 0 && t.p == 0o1002) = true := by decide
theorem test_V131_rsa : goesOn { starts [0o160003] [] with a := 0xFFF0 }
    (fun t => t.a == 0xFFFE && t.p == 0o1001) = true := by decide
theorem test_V134_rsa_past_the_width : goesOn { starts [0o160024] [] with a := 0x8000, e := 0x1234 }
    (fun t => t.a == 0xFFFF && t.e == 0x1234) = true := by decide +kernel
theorem test_V136_rsd : goesOn { starts [0o161004] [] with a := 1 }
    (fun t => t.a == 0 && t.e == 0x1000 && t.p == 0o1001) = true := by decide
theorem test_V144_lsa : goesOn { starts [0o162017] [] with a := 0xFFFF }
    (fun t => t.a == 0x8000 && !t.ov && t.p == 0o1001) = true := by decide
theorem test_V148_lsd : goesOn { starts [0o163001] [] with e := 0x8001 }
    (fun t => t.a == 1 && t.e == 2 && t.p == 0o1001) = true := by decide
theorem test_V139_rla : goesOn { starts [0o160404] [] with a := 0x8000 }
    (fun t => t.a == 0x0800 && t.p == 0o1001) = true := by decide
theorem test_V141_rld : goesOn { starts [0o161410] [] with a := 0x1234, e := 0x5678 }
    (fun t => t.a == 0x0012 && t.e == 0x3456) = true := by decide
theorem test_V151_lla : goesOn { starts [0o162401] [] with a := 0xC001 }
    (fun t => t.a == 0x8002 && t.p == 0o1001) = true := by decide
theorem test_V153_lld : goesOn { starts [0o163404] [] with a := 0x1234, e := 0x5678 }
    (fun t => t.a == 0x2345 && t.e == 0x6780) = true := by decide
theorem test_V158_csa : goesOn { starts [0o162621] [] with a := 0x8001 }
    (fun t => t.a == 3 && t.p == 0o1001) = true := by decide
theorem test_V159_csd : goesOn { starts [0o163620] [] with a := 0x1234, e := 0x5678 }
    (fun t => t.a == 0x5678 && t.e == 0x1234) = true := by decide
theorem test_V163_nop_any_kind : goesOn { starts [0o163200] [] with a := 0x1234 }
    (fun t => t.a == 0x1234 && t.p == 0o1001) = true := by decide
theorem test_V171_internal_test_ov : goesOn { starts [0o170200, 0o000400, 0o160000] [] with ov := true }
    (fun t => !t.ov && t.p == 0o1002) = true := by decide
theorem test_V175_internal_test_a : goesOn { starts [0o171600, 0o160000] [] with a := 0x0600, mm := true }
    (fun t => t.p == 0o1002) = true := by decide
theorem test_V179_internal_set : goesOn (starts [0o170300, 0o003001] [])
    (fun t => t.spio && t.epi && t.p == 0o1002) = true := by decide
theorem test_V182_internal_set_a : goesOn { starts [0o171700] [] with a := 0x0501, ov := true }
    (fun t => t.epi && !t.spio && t.ov && t.p == 0o1001) = true := by decide
theorem test_V189_mov : goesOn { starts [0o166004] [] with a := 0x1234 }
    (fun t => t.x1 == 0x1234 && t.p == 0o1001) = true := by decide
theorem test_V193_mov_many : goesOn { starts [0o165506] [] with a := 0x1234 }
    (fun t => t.e == 0x1234 && t.x2 == 0x1234 && t.x4 == 0x1234 && t.x1 == 0) = true := by decide
theorem test_V197_cmp : goesOn { starts [0o164215] [] with e := 0x00FF }
    (fun t => t.a == 0xFF00 && t.e == 0x00FF) = true := by decide
theorem test_V199_mao : goesOn { starts [0o166021] [] with x1 := 7 }
    (fun t => t.x1 == 8 && t.p == 0o1001) = true := by decide
theorem test_V202_mao_wraps : goesOn { starts [0o164224] [] with a := 0x7FFF }
    (fun t => t.a == 0x8000) = true := by decide
theorem test_V206_neg : goesOn { starts [0o164134] [] with a := 0xFFFF }
    (fun t => t.e == 1 && t.a == 0xFFFF && !t.ov) = true := by decide
theorem test_X4_output_next : goesOn (starts [0o170112, 0o000101] [])
    (fun t => t.io == [⟨10, 0, .compatible, true, true, some 0x0041, none⟩] && t.p == 0o1002) = true := by decide
theorem test_X6_output_bit : goesOn (starts [0o171303] [])
    (fun t => t.io == [⟨3, 2, .direct, true, true, some 1, none⟩] && t.p == 0o1001) = true := by decide
-- `30_encoding.md` rules R102 and R108 to R110: the second word's bit 16 is ignored, an index wraps, indirection is one level.
theorem test_V14_lda_second_word_bit16 : goesOn (starts [0o174106, 0o102000] [(0o2000, 0x0123)])
    (fun t => t.a == 0x0123 && t.p == 0o1002) = true := by decide
theorem test_V15_lda_negative_index : goesOn { starts [0o174504, 0o000400] [(0o375, 0x0456)] with x1 := 0xFFFD }
    (fun t => t.a == 0x0456 && t.p == 0o1002) = true := by decide
theorem test_V19_lda_indirect_indexed :
    goesOn { starts [0o176504, 0o002000] [(0o2004, 0x0600), (0o3000, 0x0DEF)] with x1 := 4 }
      (fun t => t.a == 0x0DEF && t.p == 0o1002) = true := by decide

-- Stops.

theorem test_V22_sum_outside_the_space : faultsWith { starts [0o175104, 0o077777] [] with x2 := 1 } .outsideSpace = true := by
  decide
-- `20_memory.md` rule R72 and `10_state.md` rule R35, with 0o1001 words installed.
theorem test_absent_memory : faultsWith { starts [0o174104, 0] [] with memWords := 0o1001 } .absentMemory = true := by decide
theorem test_p_outside_memory : faultsWith { starts [0o160000] [] with memWords := 0o1001 } .pOutsideMemory = true := by decide
theorem test_V33_cls_stops : refusedWith (starts [0o174144, 0o002000] []) .clearProtectSingleNotInSource = true := by decide
theorem test_V34_prd_stops : refusedWith (starts [0o174147, 0o002000] []) .protectDoubleNotInSource = true := by decide
-- `48_miscellaneous.md` rule R300: PI0 owns 0o40 and PI31 owns 0o77 (S2 of `95_test_vectors.md`).
theorem test_S2_pi_addresses :
    (refusedWith (starts [0o174340, 0o001000] []) (.programmedInstructionNotInSource 0o40#15) &&
      refusedWith (starts [0o174377, 0o001000] []) (.programmedInstructionNotInSource 0o77#15)) = true := by decide
-- `43_jump_branch_skip.md` rule R223: RTJ in the last installed word stores an address that is not installed.
theorem test_rtj_in_the_last_word : goesOn { starts [0o010377] [] with memWords := 0o1001 }
    (fun t => t.word 0o777 == 0x0201 && t.p == 0o1000) = true := by decide
-- `45_shift.md` rules R245, R248 and R250: a shift that fits keeps OV; V145, V146 and V150 are lossy.
theorem test_lsa_keeps_ov : goesOn { starts [0o162001] [] with a := 0xC000, ov := true }
    (fun t => t.a == 0x8000 && t.ov && t.p == 0o1001) = true := by decide
theorem test_V145_V146_V150_lossy_shifts :
    (refusedWith { starts [0o162001] [] with a := 0x4000 } .arithmeticLeftShiftLosesSignificance &&
      refusedWith { starts [0o162001] [] with a := 0x8000 } .arithmeticLeftShiftLosesSignificance &&
      refusedWith { starts [0o163020] [] with e := 0x8000 } .arithmeticLeftShiftLosesSignificance) = true := by decide
-- `43_jump_branch_skip.md` rule R216: XEC of XEC.
theorem test_xec_of_xec_stops :
    refusedWith (starts [0o174030, 0o002000] [(0o2000, 0o174030)]) .remoteOutsideAdmittedSet = true := by decide
-- Remote short X = 0, KAQ, RTJ and a two-word XIO; V122's remote ADD is admitted.
theorem test_V124_V125_admittedSet :
    (refusedWith (starts [0o174030, 0o002000] [(0o2000, 0x4001)]) .remoteOutsideAdmittedSet &&
      refusedWith (starts [0o174030, 0o002000] [(0o2000, 0xB70A)]) .remoteOutsideAdmittedSet &&
      refusedWith (starts [0o174030, 0o002000] [(0o2000, 0o174020), (0o2001, 0o3000)]) .remoteOutsideAdmittedSet &&
      refusedWith (starts [0o174030, 0o002000] [(0o2000, 0xF0C0)]) .remoteOutsideAdmittedSet &&
      goesOn { starts [0o014010] [(0o1010, 0o067405)] with a := 1 } (fun t => t.a == 6 && t.p == 0o1001)) = true := by decide
-- V130, and R240's remote instruction outside the admitted set.
theorem test_V130_smm :
    (refusedWith (starts [0o176031, 2] [(1, 0x28), (2, 0x28), (0o50, 0xF800), (0o51, 0x400)]) .smmSecondWord &&
      refusedWith (starts [0o176031, 1] [(1, 0x28), (0o50, 0x4001)]) .remoteOutsideAdmittedSet) = true := by decide

-- The parameters of `00_scope.md` rule R8: the rows that the spec's own configuration refuses, and rows with other values.

theorem test_V6_V7_V8_shortDispSign :
    let s : State := { starts [0o040401] [(0o1777, 0x6666), (0o2001, 0x5555)] with x1 := 0x0400 }
    (refusedUnder specParameters s .displacementSignUnsettled &&
      goesOnUnder { specParameters with shortDispSign := .asPrinted } s (fun t => t.a == 0x6666 && t.p == 0o1001) &&
      goesOnUnder { specParameters with shortDispSign := .allPlus } s (fun t => t.a == 0x5555 && t.p == 0o1001)) = true := by
  decide
theorem test_V18_X15_indirectBit16 :
    let s : State := starts [0o176104, 0o002000] [(0o2000, 0x8600), (0o3000, 0x0ABC)]
    (refusedUnder specParameters s .addressWordBit16 &&
      goesOnUnder { specParameters with indirectBit16 := .ignored } s (fun t => t.a == 0x0ABC && t.p == 0o1002) &&
      goesOn s (fun t => t.a == 0x0ABC && t.p == 0o1002) &&
      refusedUnder specParameters (starts [0o170701, 0o102000] []) .addressWordBit16) = true := by decide
-- R113: long JMP with G = 5.
theorem test_longGStrict :
    let s : State := starts [0o174005, 0o002000] []
    (goesOnUnder specParameters s (fun t => t.p == 0o2000) &&
      refusedUnder { specParameters with longGStrict := true } s (.unlisted .designator)) = true := by decide
-- V68, and R210: one word past `next`, or past both words of the long instruction there.
theorem test_V68_skipMode :
    let s : State := { starts [0o143402, 0o174104, 0o000000] [] with e := 0x0007 }
    (refusedUnder specParameters s .skipOverTwoWordInstruction &&
      goesOnUnder { specParameters with skipMode := .oneWord } s (fun t => t.e == 3 && t.a == 1 && t.p == 0o1002) &&
      goesOnUnder { specParameters with skipMode := .oneInstruction } s
        (fun t => t.e == 3 && t.a == 1 && t.p == 0o1003)) = true := by
  decide
-- R187: a model that assumes nothing may draw; here one in which no instruction sets OV.
theorem test_ovRule :
    let s : State := { starts [0o067401] [] with a := 0x7FFF }
    (goesOnUnder specParameters s (fun t => t.a == 0x8000 && t.ov) &&
      goesOnUnder { specParameters with ovRule := fun _ => .unchanged } s (fun t => t.a == 0x8000 && !t.ov)) = true := by
  decide
-- R187's "every other instruction": an OV_RULE by which LLA of a negative A sets OV, here too where XEC performs it.
theorem test_ovRule_other :
    let c : Parameters := { specParameters with
      ovRule := fun
        | .other (.lla _) s => if s.a.msb then .set else .unchanged
        | k => defaultOvRule k }
    (goesOnUnder c { starts [0o162401] [] with a := 0xC001 } (fun t => t.a == 0x8002 && t.ov) &&
      goesOnUnder c { starts [0o162401] [] with a := 1 } (fun t => t.a == 2 && !t.ov) &&
      goesOnUnder c { starts [0o174030, 0o2000] [(0o2000, 0o162401)] with a := 0xC001 } (fun t => t.a == 0x8002 && t.ov) &&
      goesOnUnder specParameters { starts [0o162401] [] with a := 0xC001 } (fun t => !t.ov)) = true := by decide
-- R188 and R189 with other functions: a product of 0x12345678 and a division that always overflows.
theorem test_mpyFn_dvdFn :
    (goesOnUnder { specParameters with mpyFn := fun _ _ => 0x12345678#32 } (starts [0o073401] [])
        (fun t => t.a == 0x1234 && t.e == 0x5678 && t.p == 0o1001) &&
      goesOnUnder { specParameters with dvdFn := fun _ _ => none } (starts [0o143402] []) (fun t => t.p == 0o1001)) = true := by
  decide
theorem test_V190_V191_movDestMap :
    let c : Parameters := { specParameters with movDestMap := .asExtracted }
    (goesOnUnder c { starts [0o166004] [] with a := 0x1234, x1 := 7 } (fun t => t.x1 == 7 && t.p == 0o1001) &&
      goesOnUnder c { starts [0o165004] [] with a := 0x1234 } (fun t => t.x1 == 0x1234 && t.p == 0o1001)) = true := by
  decide
-- V69 and V120, and a supplied meaning for TRN that exchanges A and E (`45_shift.md` rule R257).
theorem test_V69_V120_namedOnly :
    (refusedUnder specParameters { starts [0o154401] [] with x1 := 5 } .augmentIndexTestNotInSource &&
      refusedUnder specParameters (starts [0o020001] []) .tableCountNotInSource &&
      goesOnUnder { specParameters with
          namedOnly := fun _ => some fun at_ s => advance at_ ((s.setA s.e).setE s.a) }
        { starts [0o160601] [] with a := 1, e := 2 } (fun t => t.a == 2 && t.e == 1 && t.p == 0o1001)) = true := by decide
-- R240: bit 16 of SMM's address word as `INDIRECT_BIT16` has it; the rule's example.
theorem test_R240_smm_address_word :
    let s : State := starts [0o176031, 1] [(1, 0x8028), (0o50, 0xF800), (0o51, 0x400)]
    (refusedUnder specParameters s .addressWordBit16 && goesOn s (fun t => t.mm && t.p == 0o2000) &&
      goesOnUnder specParameters (starts [0o176031, 1] [(1, 0o50), (0o50, 0o174000), (0o51, 0o2000)])
        (fun t => t.mm && t.p == 0o2000)) = true := by decide
theorem test_V173_V183_sense_and_scanner :
    (goesOnUnder { specParameters with sense := fun _ => 0b0100#4 } (starts [0o170200, 0o000360, 0o160000] [])
        (fun t => t.p == 0o1002) &&
      goesOnUnder { specParameters with scanner := fun _ => 0o25#6 } (starts [0o173700] [])
        (fun t => t.a == 0x0415 && t.p == 0o1001)) = true := by decide
theorem test_X2_X3_X8_io :
    (goesOnUnder { specParameters with ioReady := fun _ ed => ed == 5#6 }
        { starts [0o171605, 0o160000] [] with a := 0x0041 }
        (fun t => t.io == [⟨5#6, 3#3, .direct, false, true, some 0x0041, none⟩] && t.p == 0o1002) &&
      goesOnUnder { specParameters with ioReady := fun _ _ => false } { starts [0o171605, 0o160000] [] with a := 0x0041 }
        (fun t => t.io == [⟨5#6, 3#3, .direct, false, false, none, none⟩] && t.p == 0o1001) &&
      goesOnUnder { specParameters with
          ioReady := fun _ ed => ed == 10#6,
          ioInput := fun _ _ _ status => if status then 0 else 0x00C1 } (starts [0o173612, 0o160000] [])
        (fun t => t.a == 0x00C1 && t.io == [⟨10#6, 7#3, .direct, false, true, none, some 0x00C1⟩] &&
          t.p == 0o1002)) = true := by decide

-- Witnesses: states and operands that meet the hypotheses of each statement, clause by clause. `sample` stands at 0o1000
-- in zeros (a zero word has one word); `edge` at 0o77776, the last place but one.

/-- A state with a word of each kind in memory. -/
def sample : State :=
  { image [(0o1002, 0x1111), (0o2000, 0x7FFF), (0o2001, 1), (0o2002, 0xFFFF)] with
    a := 5, e := 7, x1 := 0o2000, x2 := 2, x4 := 0o77777 }

/-- A state whose next place is the last of the address space. -/
def edge : State := { sample with p := 0o77776#15 }

/-- A state with an instruction to execute remotely at 0o2000, and location 1 pointing at it. -/
def remote (w w2 : Nat) : State := image [(1, 0o2000), (0o2000, w), (0o2001, w2)]

theorem witness_DecodeOfEncode :
    (Instr.xec (.long .x4 7#3 0xFFFF#16)).wellFormed = true ∧ (Instr.lsd 0x7F#7).wellFormed = true := by decide
theorem witness_EncodeOfDecode : decode 0o157577#16 0#16 = .ok (.lst 0x3F#7) := rfl
theorem witness_DecodedIsWellFormed : decode 0o170777#16 0xFFFF#16 = .ok (.xio (.output (.via 0xFFFF#16)) true true 0o77#6) :=
  rfl
theorem witness_UnlistedWordsAreRefused :
    unlistedWord 0o150000#16 = true ∧ unlistedWord 0o173600#16 = true ∧ excludedSevenWord 0o177777#16 = true ∧
      (unlistedWord ((starts [0o150000] []).word 0o1000#15) || excludedSevenWord 0#16) = true := by decide
theorem witness_LongModifierTable :
    isAddressOf 0o77777#16 (sample.longAddress .base 0o177777#16) ∧
      isAddressOf 0x8000#16 (sample.longAddress .x4 1#16) :=
  ⟨⟨_, rfl, by decide⟩, rfl⟩
theorem witness_ShortModifierTable :
    isAddressOf 0o777#16 (sample.shortAddress 0o1000#15 .base 0xFF#8) ∧
      isAddressOf 0xFFFF#16 (sample.shortAddress 0#15 .base 0xFF#8) :=
  ⟨⟨_, rfl, by decide⟩, rfl⟩
theorem witness_IndirectTakesOneAddressWord :
    sample.implemented 0o77777#15 = true ∧ (sample.word 0o77777#15).getLsbD 15 = false ∧
      (sample.word 0o2002#15).getLsbD 15 = true := by decide
theorem witness_UnreadableOperandStops :
    sample.operandOf (Site.own 2 sample) (.long .x4 0#3 1#16) = .error (.fault .outsideSpace) ∧
      sample.operandOf (Site.own 2 sample) (longForm .x4 1#16) = .error (.fault .outsideSpace) ∧
      sample.effectiveAddress (Site.own 2 sample) (.long .x4 0#3 1#16) = .error (.fault .outsideSpace) ∧
      (let s := { sample with memWords := 0o1001 };
        s.effectiveAddress (Site.own 1 s) (.short .base 1#8) = .ok 0o1001#15 ∧ s.implemented 0o1001#15 = false ∧
          s.locationOf (Site.own 1 s) (.short .base 1#8) = .ok 0o1001#15 ∧
          s.locationOf (Site.own 2 s) (longForm .base 0o1001#16) = .ok 0o1001#15 ∧
          addsToMemory (.amt2 .base 0o1001#16) 2 (longForm .base 0o1001#16) ∧ 0o1001#15 ≠ 0x7FFF#15 ∧
          s.p.toNat + 1 < addressSpace) :=
  ⟨rfl, rfl, rfl, rfl, by decide, rfl, rfl, .inr ⟨.base, 0o1001#16, rfl, by decide⟩, by decide, by decide⟩
theorem witness_RegisterCodes :
    fieldOp 0o174100#16 = 0o37#5 ∧ fieldLongOp 0o174100#16 = 0o10#5 ∧ fieldG 0o174100#16 = 0#3 := by decide
theorem witness_ExcludedLiteralFormsStop :
    Form.long .literal 0#3 1#16 = .long .literal 0#3 1#16 ∧
      Instr.jmp (.long .literal 0#3 1#16) = .jmp (.long .literal 0#3 1#16) ∧
      Instr.imt (.short .literal 0#8) = .imt (.short .literal 0#8) := by decide
theorem witness_DoubleWordHighHalfFirst :
    (hasDouble sample 0o77776#15 ∧ sample.wellFormed = true) ∧ hasDouble sample 0#15 ∧ ¬ hasDouble sample 0o77777#15 :=
  ⟨⟨⟨by decide, by decide, by decide⟩, by decide⟩, ⟨by decide, by decide, by decide⟩, fun h => h.1 rfl⟩

/-- A short memory operand, a short literal and a long literal, each with room to go on. -/
theorem witness_operand_of_every_form :
    (isOperand sample (.short .base 2#8) 0x1111#16 ∧ follows sample 1 0o1001#15) ∧
      (isOperand edge (.short .literal 0xFF#8) 0xFF#16 ∧ follows edge 1 0o77777#15) ∧
      (isOperand sample (.long .literal 4#3 0xFFFF#16) 0xFFFF#16 ∧ follows sample 2 0o1002#15) ∧
      (isOperand sample (.long .x1 4#3 0o100001#16) 1#16 ∧ follows sample 2 0o1002#15) :=
  ⟨⟨⟨0o1002#15, rfl, rfl, rfl⟩, by decide, by decide⟩, ⟨rfl, by decide, by decide⟩, ⟨rfl, by decide, by decide⟩,
    ⟨0o2001#15, rfl, rfl, rfl⟩, by decide, by decide⟩

theorem witness_LdaAndLdeLoadTheOperand :
    (isOperand sample (.short .base 2#8) 0x1111#16 ∧ follows sample 1 0o1001#15) ∧
      sample.operandOf (Site.own 2 sample) (.long .x4 4#3 1#16) = .error (.fault .outsideSpace) :=
  ⟨witness_operand_of_every_form.1, rfl⟩
theorem witness_LdxLoadsAnIndexRegister :
    isOperand sample (longForm .x1 1#16) 1#16 ∧ follows sample 2 0o1002#15 :=
  ⟨⟨0o2001#15, rfl, rfl, rfl⟩, by decide, by decide⟩
theorem witness_DlaLoadsADoubleWord :
    (sample.effectiveAddress (Site.own 2 sample) (.long .base 0#3 0o77776#16) = .ok 0o77776#15 ∧
        hasDouble sample 0o77776#15 ∧ follows sample 2 0o1002#15) ∧
      sample.effectiveAddress (Site.own 2 sample) (.long .base 0#3 0o77777#16) = .ok 0o77777#15 ∧
        ¬ hasDouble sample 0o77777#15 :=
  ⟨⟨rfl, ⟨by decide, by decide, by decide⟩, by decide, by decide⟩, rfl, fun h => h.1 rfl⟩
theorem witness_StaAndSteStoreOneWord :
    (sample.wellFormed = true ∧ sample.locationOf (Site.own 2 sample) (.long .literal 4#3 0#16) = .ok 0o1001#15 ∧
        sample.implemented 0o1001#15 = true ∧ follows sample 2 0o1002#15) ∧
      (edge.wellFormed = true ∧ edge.locationOf (Site.own 1 edge) (.short .base 1#8) = .ok 0o77777#15 ∧
        edge.implemented 0o77777#15 = true ∧ follows edge 1 0o77777#15) ∧ edge.p ≠ 0x7FFF#15 :=
  ⟨⟨by decide, rfl, by decide, by decide, by decide⟩, ⟨by decide, rfl, by decide, by decide, by decide⟩, by decide⟩
theorem witness_DstStoresADoubleWord :
    (sample.wellFormed = true ∧ sample.effectiveAddress (Site.own 2 sample) (.long .base 4#3 0o77776#16) = .ok 0o77776#15 ∧
        hasDouble sample 0o77776#15 ∧ follows sample 2 0o1002#15) ∧
      sample.effectiveAddress (Site.own 2 sample) (.long .base 4#3 0o77777#16) = .ok 0o77777#15 ∧
        ¬ hasDouble sample 0o77777#15 :=
  ⟨⟨by decide, rfl, ⟨by decide, by decide, by decide⟩, by decide, by decide⟩, rfl, fun h => h.1 rfl⟩
theorem witness_StxAndStzStoreOneWord :
    sample.wellFormed = true ∧ sample.locationOf (Site.own 2 sample) (longForm .literal 0#16) = .ok 0o1001#15 ∧
      sample.implemented 0o1001#15 = true ∧ follows sample 2 0o1002#15 :=
  ⟨by decide, rfl, by decide, by decide, by decide⟩
theorem witness_NamedOnlyInstructionsStop :
    namedOnly (.cls .base 0#16) = some .clearProtectSingleNotInSource ∧
      namedOnly (.lst 0x7F#7) = some .loadStatusNotInSource := by decide
theorem witness_AddAndSubSetOvOnOverflow :
    (isOperand sample (.long .base 0#3 0o2000#16) 0x7FFF#16 ∧ follows sample 2 0o1002#15) ∧
      inRange16 (sample.a.toInt + (0x7FFF#16).toInt) = false ∧ inRange16 (sample.a.toInt - (0x7FFF#16).toInt) = true :=
  ⟨⟨⟨0o2000#15, rfl, rfl, rfl⟩, by decide, by decide⟩, by decide, by decide⟩
theorem witness_MpyGivesTheExactProduct :
    isOperand { sample with a := 0x8000#16 } (.long .literal 0#3 0x8000#16) 0x8000#16 ∧
      follows { sample with a := 0x8000#16 } 2 0o1002#15 := ⟨rfl, by decide, by decide⟩
theorem witness_DadAddsDoubleWords :
    sample.effectiveAddress (Site.own 2 sample) (.long .base 0#3 0o2000#16) = .ok 0o2000#15 ∧ hasDouble sample 0o2000#15 ∧
      follows sample 2 0o1002#15 := ⟨rfl, ⟨by decide, by decide, by decide⟩, by decide, by decide⟩
theorem witness_DvdDividesOrReportsOverflow :
    (let s : State := { sample with a := 0xFFFF#16, e := 0x8000#16 };
      isOperand s (.short .literal 1#8) 1#16 ∧ inRange16 ((s.a ++ s.e).toInt.tdiv (1#16).toInt) = true ∧
        skipsTo s 1 0o1002#15) ∧
    (let s : State := { sample with a := 0#16, e := 0x8000#16 };
      isOperand s (.short .literal 1#8) 1#16 ∧ inRange16 ((s.a ++ s.e).toInt.tdiv (1#16).toInt) = false ∧
        follows s 1 0o1001#15) ∧
    isOperand sample (.short .literal 0#8) 0#16 ∧ follows sample 1 0o1001#15 :=
  ⟨⟨rfl, by decide, 0o1001#15, ⟨by decide, by decide⟩, by decide, by decide⟩, ⟨rfl, by decide, by decide, by decide⟩, rfl,
    by decide, by decide⟩
theorem witness_DvdUndoesMpy :
    0x8000#16 ≠ 0#16 ∧ follows sample 2 0o1002#15 ∧ skipsTo { sample with p := 0o1002#15 } 2 0o1005#15 :=
  ⟨by decide, ⟨by decide, by decide⟩, 0o1004#15, ⟨by decide, by decide⟩, by decide, by decide⟩
theorem witness_LogicalsCombineEAndOperand :
    isOperand sample (.long .base 7#3 0o2000#16) 0x7FFF#16 ∧ follows sample 2 0o1002#15 :=
  ⟨⟨0o2000#15, rfl, rfl, rfl⟩, by decide, by decide⟩
theorem witness_JmpSetsP :
    sample.effectiveAddress (Site.own 1 sample) (.short .indirectX1 0#8) = .ok 0o77777#15 ∧
      { sample with memWords := 1 }.implemented sample.p = false := ⟨rfl, by decide⟩
theorem witness_JciClearsIntrAndJumps :
    { sample with intr := true }.effectiveAddress (Site.own 2 sample) (.long .indirect 0#3 0o2000#16) = .ok 0o77777#15 := rfl
theorem witness_ConditionalJumpsTestA :
    (sample.effectiveAddress (Site.own 1 sample) (.short .base 3#8) = .ok 0o1003#15 ∧ follows sample 1 0o1001#15) ∧
      (0x8000#16 : Word).getLsbD 15 = true ∧ ((0x7FFF#16 : Word).getLsbD 15 = false ∧ 0x7FFF#16 ≠ 0#16) ∧
      sample.effectiveAddress (Site.own 2 sample) (.long .x4 0#3 1#16) = .error (.fault .outsideSpace) :=
  ⟨⟨rfl, by decide, by decide⟩, by decide, by decide, rfl⟩
theorem witness_RtjStoresTheReturnAddress :
    (sample.effectiveAddress (Site.own 2 sample) (.long .base 0#3 0o77776#16) = .ok 0o77776#15 ∧
        (0o1002#15).toNat = sample.p.toNat + 2 ∧ sample.wellFormed = true ∧ sample.implemented 0o77776#15 = true) ∧
      sample.effectiveAddress (Site.own 2 sample) (.long .x4 0#3 0#16) = .ok 0x7FFF#15 :=
  ⟨⟨rfl, by decide, by decide, by decide⟩, rfl⟩
theorem witness_IndirectJumpReturnsFromRtj :
    sample.wellFormed = true ∧ sample.effectiveAddress (Site.own 2 sample) (.long .base 0#3 0o77776#16) = .ok 0o77776#15 ∧
      sample.implemented 0o77776#15 = true ∧ 0o77776#15 ≠ 0x7FFF#15 ∧ (0o1002#15).toNat = sample.p.toNat + 2 :=
  ⟨by decide, rfl, by decide, by decide, by decide⟩
theorem witness_JtbJumpsThroughATable :
    sample.effectiveAddress (Site.own 2 sample) (.long .base 0#3 0o2000#16) = .ok 0o2000#15 ∧
      sample.implemented (0o2000#15 + Config.drawCount sample.draws) = true := ⟨rfl, rfl⟩
theorem witness_SkipPassesOneInstructionOrOneWord :
    isTwoWord 0o160000#16 = false ∧ isTwoWord 0o170177#16 = true := by decide
theorem witness_ComparesSkip :
    (isOperand { sample with a := 0x8000#16 } (.long .literal 0#3 0x7FFF#16) 0x7FFF#16 ∧
        skipsTo { sample with a := 0x8000#16 } 2 0o1003#15 ∧ (0x8000#16).toInt < (0x7FFF#16).toInt) ∧
      (isOperand sample (.short .literal 5#8) sample.a ∧ skipsTo sample 1 0o1002#15 ∧ follows sample 1 0o1001#15) ∧
      isOperand sample (.long .literal 0#3 0xFFFF#16) 0xFFFF#16 ∧ (0xFFFF#16).toInt < sample.a.toInt ∧
        skipsTo sample 2 0o1003#15 ∧ follows sample 2 0o1002#15 ∧ sample.a ≠ 0xFFFF#16 :=
  ⟨⟨rfl, ⟨0o1002#15, ⟨by decide, by decide⟩, by decide, by decide⟩, by decide⟩,
    ⟨rfl, ⟨0o1001#15, ⟨by decide, by decide⟩, by decide, by decide⟩, by decide, by decide⟩, rfl, by decide,
    ⟨0o1002#15, ⟨by decide, by decide⟩, by decide, by decide⟩, ⟨by decide, by decide⟩, by decide⟩
theorem witness_AddToMemorySkipsOnZeroOrSignChange :
    (addsToMemory (.imt (.long .base 1#3 0o2002#16)) 1 (.long .base 1#3 0o2002#16) ∧ sample.wellFormed = true ∧
        sample.locationOf (Site.own 2 sample) (.long .base 1#3 0o2002#16) = .ok 0o2002#15 ∧
        sample.implemented 0o2002#15 = true ∧ sample.word 0o2002#15 + BitVec.ofNat 16 1 = 0#16 ∧
        skipsTo (sample.putWord 0o2002#15 0#16) 2 0o1003#15) ∧
      addsToMemory (.amt7 .base 0o2001#16) 7 (longForm .base 0o2001#16) ∧
        sample.locationOf (Site.own 2 sample) (longForm .base 0o2001#16) = .ok 0o2001#15 ∧
        (sample.word 0o2001#15 + BitVec.ofNat 16 7).getLsbD 15 = (sample.word 0o2001#15).getLsbD 15 ∧
        follows sample 2 0o1002#15 :=
  ⟨⟨.inl ⟨rfl, rfl⟩, by decide, rfl, by decide, by decide, 0o1002#15, ⟨by decide, by decide⟩, by decide, by decide⟩,
    .inr ⟨.base, 0o2001#16, rfl, by decide⟩, rfl, by decide, by decide, by decide⟩
theorem witness_XecPerformsTheRemoteInstruction :
    (sample.effectiveAddress (Site.own 2 sample) (.long .base 0#3 0o2000#16) = .ok 0o2000#15 ∧
        wordsAt (remote 0o174104 0o3000) 0o2000#15 0o174104#16 0o3000#16 ∧
        decode 0o174104#16 0o3000#16 = .ok (.lda (.long .base 4#3 0o3000#16)) ∧
        admitted (.lda (.long .base 4#3 0o3000#16)) = true) ∧
      (wordsAt (remote 0o174030 0o2000) 0o2000#15 0o174030#16 0o2000#16 ∧
        decode 0o174030#16 0o2000#16 = .ok (.xec (.long .base 0#3 0o2000#16)) ∧
        admitted (.xec (.long .base 0#3 0o2000#16)) = false) ∧
      performsRemote (.lda (.long .base 4#3 0o3000#16)) = false :=
  ⟨⟨rfl, ⟨by decide, by decide, fun _ => ⟨by decide, by decide, by decide⟩⟩, rfl, by decide⟩,
    ⟨⟨by decide, by decide, fun _ => ⟨by decide, by decide, by decide⟩⟩, rfl, by decide⟩, by decide⟩
theorem witness_XecCompletes :
    (let s := remote 0o067405 0;
      s.effectiveAddress (Site.own 2 s) (.long .base 0#3 0o2000#16) = .ok 0o2000#15 ∧
        wordsAt s 0o2000#15 0o067405#16 0#16 ∧ follows s 2 0o1002#15 ∧
        decode 0o067405#16 0#16 = .ok (.add (.short .literal 5#8))) ∧
      (wordsAt (remote 0o164205 0) 0o2000#15 0o164205#16 0#16 ∧ decode 0o164205#16 0#16 = .ok (.mov 0b00010#5 5#3)) ∧
      (wordsAt (remote 0o162577 0) 0o2000#15 0o162577#16 0#16 ∧ decode 0o162577#16 0#16 = .ok (.lla 0x7F#7)) ∧
      wordsAt (remote 0o174000 0o77777) 0o2000#15 0o174000#16 0o77777#16 ∧
        decode 0o174000#16 0o77777#16 = .ok (.jmp (.long .base 0#3 0o77777#16)) :=
  ⟨⟨rfl, ⟨by decide, by decide, fun h => absurd h (by decide)⟩, ⟨by decide, by decide⟩, rfl⟩,
    ⟨⟨by decide, by decide, fun h => absurd h (by decide)⟩, rfl⟩,
    ⟨⟨by decide, by decide, fun h => absurd h (by decide)⟩, rfl⟩,
    ⟨by decide, by decide, fun _ => ⟨by decide, by decide, by decide⟩⟩, rfl⟩
theorem witness_SmmSetsMonitorMasterAndExecutes :
    (let s := remote 0o164205 0;
      smmAddressWord s 0x8001#16 0o2000#16 ∧
        wordsAt s ((0o2000#16 : Word).setWidth 15) 0o164205#16 0#16 ∧
        decode 0o164205#16 0#16 = .ok (.mov 0b00010#5 5#3) ∧ admitted (.mov 0b00010#5 5#3) = true ∧
        follows s 2 0o1002#15) ∧
      wordsAt (remote 0o174000 0o77777) 0o2000#15 0o174000#16 0o77777#16 ∧
        decode 0o174000#16 0o77777#16 = .ok (.jmp (.long .base 0#3 0o77777#16)) :=
  ⟨⟨⟨by decide, by decide, by decide⟩,
      ⟨by decide, by decide, fun h => absurd h (by decide)⟩, rfl, by decide, by decide, by decide⟩,
    ⟨by decide, by decide, fun _ => ⟨by decide, by decide, by decide⟩⟩, rfl⟩
theorem witness_SmmSetsMonitorMasterAndExecutes_refused :
    (0#16 : Word).setWidth 15 ≠ 1#15 ∧ (0o77777#16 : Word).setWidth 15 ≠ 1#15 ∧
      wordsAt (remote 0x4001 0) 0o2000#15 0x4001#16 0#16 ∧ decode 0x4001#16 0#16 = .ok (.lda (.short .base 1#8)) ∧
      admitted (.lda (.short .base 1#8)) = false :=
  ⟨by decide, by decide, ⟨by decide, by decide, fun h => absurd h (by decide)⟩, rfl, by decide⟩
theorem witness_ArithmeticRightShiftsDivide : follows sample 1 0o1001#15 ∧ follows edge 1 0o77777#15 := by
  refine ⟨⟨?_, ?_⟩, ?_, ?_⟩ <;> decide
theorem witness_LogicalAndCircularShifts : follows sample 1 0o1001#15 ∧ follows edge 1 0o77777#15 :=
  witness_ArithmeticRightShiftsDivide
theorem witness_ArithmeticLeftShiftsMultiply :
    follows sample 1 0o1001#15 ∧ inRange16 (sample.a.toInt * 2 ^ (12#7).toNat) = true ∧
      inRange16 (sample.a.toInt * 2 ^ (13#7).toNat) = false ∧
      inRange32 ((sample.a ++ sample.e).toInt * 2 ^ (12#7).toNat) = true ∧
      inRange32 ((sample.a ++ sample.e).toInt * 2 ^ (13#7).toNat) = false :=
  ⟨⟨by decide, by decide⟩, by decide, by decide, by decide, by decide⟩
theorem witness_ZeroCountShiftsAreNop :
    ((0o163600#16 : Word).extractLsb' 11 5 = 0o34#5 ∧ (0o163600#16 : Word).extractLsb' 0 7 = 0#7) ∧
      follows edge 1 0o77777#15 ∧ ¬ ∃ n, follows { sample with p := 0o77777#15 } 1 n :=
  ⟨by decide, ⟨by decide, by decide⟩, fun h => absurd h.choose_spec.1 (by
    have := h.choose.isLt
    change h.choose.toNat ≠ 0o77777 + 1
    omega)⟩
theorem witness_XioWordPlaces :
    (sample.p ≠ 0x7FFF#15 ∧ sample.implemented (sample.p + 1#15) = true) ∧
      sample.implemented ((0x8002#16 : Word).setWidth 15) = true := by decide
theorem witness_InternalTestSkipsIfAllZero :
    (sample.sourceWord (.next 0x0701#16) = .ok 0x0701#16 ∧ allTestedZero sample 0x0701#16 ∧ skipsTo sample 2 0o1003#15) ∧
      ¬ allTestedZero { sample with ov := true } 0x0100#16 ∧ follows sample 2 0o1002#15 :=
  ⟨⟨rfl, ⟨by decide, by decide, by decide, by decide⟩, 0o1002#15, ⟨by decide, by decide⟩, by decide, by decide⟩,
    fun h => absurd (h.2.1 (by decide)) (by decide), by decide, by decide⟩
theorem witness_InternalSetWritesTheAllowFlipFlops :
    sample.sourceWord (.via 0o2000#16) = .ok 0x7FFF#16 ∧ follows sample 2 0o1002#15 := ⟨rfl, by decide, by decide⟩
theorem witness_InternalInputReadsTheScanner :
    follows edge 1 0o77777#15 ∧ follows sample 2 0o1002#15 ∧ sample.wellFormed = true ∧
      sample.destLocation (Site.own 2 sample) (.next 0#16) = .ok (some 0o1001#15) ∧
      sample.destLocation (Site.own 2 sample) (.via 0o77777#16) = .ok (some 0o77777#15) :=
  ⟨⟨by decide, by decide⟩, ⟨by decide, by decide⟩, by decide, rfl, rfl⟩
theorem witness_ExternalOutputRecordsAnEvent :
    (hasOutput sample (.output .a) true (some 5#16) ∧ hasOutput sample .outputBit true (some 1#16) ∧
        hasOutput sample .control false none) ∧
      follows sample 1 0o1001#15 ∧ skipsTo sample 1 0o1002#15 :=
  ⟨⟨.inl ⟨.a, 5#16, rfl, rfl, rfl⟩, .inr (.inl ⟨rfl, rfl⟩), .inr (.inr ⟨rfl, rfl⟩)⟩, ⟨by decide, by decide⟩, 0o1001#15,
    ⟨by decide, by decide⟩, by decide, by decide⟩
theorem witness_ExternalInputStoresTheWordSupplied :
    (follows sample 1 0o1001#15 ∧ skipsTo sample 1 0o1002#15) ∧ follows sample 2 0o1002#15 ∧ sample.wellFormed = true ∧
      sample.destLocation (Site.own 2 sample) (.via 0o2000#16) = .ok (some 0o2000#15) ∧
      ∀ w, skipsTo (sample.putWord 0o2000#15 w) 2 0o1003#15 :=
  ⟨⟨⟨by decide, by decide⟩, 0o1001#15, ⟨by decide, by decide⟩, by decide, by decide⟩, ⟨by decide, by decide⟩, by decide, rfl,
    fun w => ⟨0o1002#15, ⟨rfl, rfl⟩, by
      rw [State.word_putWord_other sample w (by decide : (0o1002#15 : Addr) ≠ 0o2000#15)]
      decide, rfl⟩⟩
theorem witness_MovFamilyWritesEveryDestination :
    follows edge 1 0o77777#15 ∧ edge.reg 4#3 ≠ 0x7FFF#16 ∧ edge.reg 4#3 ≠ 0x8000#16 :=
  ⟨⟨by decide, by decide⟩, by decide, by decide⟩
theorem witness_NegIsMaoOfCmp : follows sample 1 0o1001#15 ∧ follows { sample with p := 0o1001#15 } 1 0o1002#15 := by
  refine ⟨⟨?_, ?_⟩, ?_, ?_⟩ <;> decide
theorem witness_StepKeepsWellFormed :
    (starts [0o110003] []).wellFormed = true ∧ goesOn (starts [0o110003] []) State.wellFormed = true := by decide
theorem witness_StepAppendsToTheHistory : goesOn (starts [0o171303] []) (fun t => t.io.length == 1) = true := by decide
theorem witness_StepRunsTheDecodedInstruction :
    (starts [0o174104, 0o2000] []).interruptArrives = false ∧
      wordsAt (starts [0o174104, 0o2000] []) 0o1000#15 0o174104#16 0o2000#16 ∧
      decode 0o174104#16 0o2000#16 = .ok (.lda (.long .base 4#3 0o2000#16)) :=
  ⟨by decide, ⟨by decide, by decide, fun _ => ⟨by decide, by decide, by decide⟩⟩, rfl⟩
theorem witness_StoredInstructionIsFetched :
    (edge.wellFormed = true ∧ hasDouble edge edge.p) ∧ (Instr.smm 0xFFFF#16).wellFormed = true ∧
      decodeTableWord 32 0x0001FC19 = some (.smm 1#16) :=
  ⟨⟨by decide, by decide, by decide, by decide⟩, by decide, by decide⟩
theorem witness_InterruptsAreRefusedOnlyWhereAllowed : sample.spio = false ∧ sample.epi = false := by decide
theorem witness_MonitorMasterAndIntrAreReadByNothing : goesOn { starts [0o160000] [] with mm := true } State.mm = true := by
  decide
theorem witness_OnlySmmSetsMonitorMaster :
    (∃ t, exec (.jci (.short .base 2#8)) { sample with intr := true, mm := true } = .next t) ∧
      ∃ t, exec (.smm 1#16) (remote 0o164205 0) = .next t := ⟨⟨_, rfl⟩, _, rfl⟩
theorem witness_FlipFlopsAndRegistersAreKept :
    (∃ t, exec (.sta (.short .base 2#8)) sample = .next t) ∧ mayChangeOv (.sta (.short .base 2#8)) = false ∧
      mayChangeAllow (.sta (.short .base 2#8)) = false ∧ mayChangeIndex (.sta (.short .base 2#8)) = false ∧
      mayChangeE (.sta (.short .base 2#8)) = false ∧
      ((∃ t, exec (.lsa 12#7) { sample with ov := true } = .next t) ∧ mayClearOv (.lsa 15#7) = false) :=
  ⟨⟨_, rfl⟩, by decide, by decide, by decide, by decide, ⟨_, rfl⟩, by decide⟩
theorem witness_MemoryIsKept :
    (∃ t, exec (.kaq (.short .literal 5#8)) sample = .next t) ∧ storesNothing (.kaq (.short .literal 5#8)) = true :=
  ⟨⟨_, rfl⟩, by decide⟩

end Sys2Proof.Tests
end

section
/-! The state (`10_state.md`): the invariant after reset, the register codes, and what each instruction writes. -/

namespace Sys2Proof.Machine

-- The invariant.

/-- The four parts of the invariant by name. -/
theorem State.wellFormed_iff {s : State} :
    s.wellFormed = true ↔ s.mem.wfBetween 0 (2 * s.memWords) = true ∧ 1 ≤ s.memWords ∧ s.memWords ≤ addressSpace ∧
      s.io.all ioEventWf = true := by
  simp only [State.wellFormed, Bool.and_eq_true, decide_eq_true_eq, and_assoc]

/-- Settles O51: the memory and the history of `State.reset` are empty and all 32768 words are installed. -/
theorem resetIsWellFormed : Obligations.ResetIsWellFormed :=
  State.wellFormed_iff.2 ⟨rfl, by decide, Nat.le_refl _, rfl⟩

-- The register codes.

theorem designatorA_iff {g : BitVec 3} : designatorA g = true ↔ g = 4#3 ∨ g = 6#3 := by
  simp [designatorA]

theorem designatorE_iff {g : BitVec 3} : designatorE g = true ↔ g = 5#3 ∨ g = 7#3 := by
  simp [designatorE]

/-- Code 0 reads as zeros in every state, whatever was written before. -/
@[simp] theorem State.reg_zero (s : State) : s.reg 0#3 = 0#16 := rfl

/-- Operation code 37 selects the long format. -/
theorem decode_long {w : Word} (w2 : Word) (h : fieldOp w = 0o37#5) : decode w w2 = decodeLong w w2 false := by
  simp [decode, h]

/-- The load rows print no designator 0 (`30_encoding.md` rule R115). -/
theorem decodeLong_load_zero {w : Word} (w2 : Word) (strict : Bool)
    (hop : fieldLongOp w = 0o10#5 ∨ fieldLongOp w = 0o11#5) (hg : fieldG w = 0#3) :
    decodeLong w w2 strict = .error .designator := by
  obtain h | h := hop
  · simp [decodeLong, h, hg, admitRead1, Form.wfRead1, designatorA]
  · simp [decodeLong, h, hg, admitRead1, Form.wfRead1, designatorE]

/-- Settles O11, clause by clause: the reads, DEST, the loads with designator 0, the designators of loads and stores. -/
theorem registerCodes : Obligations.RegisterCodes := by
  refine ⟨fun s => ⟨rfl, rfl, rfl, rfl, rfl, rfl, rfl, rfl⟩, fun s dest r => ⟨_, _, _, _, _, rfl, State.reg_zero _⟩, ?_, ?_⟩
  · intro w w2 hlong hop hg
    rw [decode_long w2 hlong]
    exact decodeLong_load_zero w2 false hop hg
  · intro x g w2 alt
    exact ⟨designatorA_iff, designatorE_iff, designatorA_iff, designatorE_iff, rfl, rfl, rfl, rfl, rfl, rfl, rfl⟩

-- What each instruction writes.

/-- What an instruction that goes on has written, but for P: `u` is `s` with those registers, flip-flops, words of memory
or events changed that the instruction's rule writes. The instructions that stop in every state, and XEC and SMM, which
are not performed remotely, write nothing. -/
def Writes (i : Instr) (s u : State) : Prop :=
  match i with
  | .lda _ | .lor _ | .and _ | .xor _ | .rsa _ _ | .lsa _ | .rla _ | .lla _ | .csa _ => ∃ v, u = s.setA v
  | .lde _ => ∃ v, u = s.setE v
  | .ldx1 _ _ _ => ∃ v, u = s.setX1 v
  | .ldx2 _ _ _ => ∃ v, u = s.setX2 v
  | .ldx4 _ _ _ => ∃ v, u = s.setX4 v
  | .dla _ | .mpy _ | .rsd _ _ | .lsd _ | .rld _ _ | .lld _ | .csd _ => ∃ v, u = s.setAE v
  | .add _ => ∃ v r, u = (s.setA r).ovAfter (.add s.a v)
  | .sub _ => ∃ v r, u = (s.setA r).ovAfter (.sub s.a v)
  | .dad _ => ∃ v r, u = (s.setAE r).ovAfter (.dad s.ae v)
  | .dvd _ => ∃ v q r overflow, u = ((s.setE q).setA r).ovAfter (.dvd s.ae v overflow)
  | .axd1 _ => ∃ v, u = (s.setX1 v).maySetOv
  | .axd2 _ => ∃ v, u = (s.setX2 v).maySetOv
  | .axd4 _ => ∃ v, u = (s.setX4 v).maySetOv
  | .sta _ | .ste _ | .stx1 _ _ _ | .stx2 _ _ _ | .stx4 _ _ _ | .stz _ _ _ | .rtj _ => ∃ m w, u = s.putWord m w
  | .dst _ => ∃ m hi lo, u = (s.putWord m hi).putWord (m + 1#15) lo
  | .imt _ | .amt0 _ _ | .amt2 _ _ | .amt3 _ _ | .amt4 _ _ | .amt5 _ _ | .amt6 _ _ | .amt7 _ _ =>
    ∃ m r k old, u = (s.putWord m r).ovAfter (.addToMemory k old)
  | .jmp _ | .jlz _ | .jez _ | .jgz _ | .kal _ | .kaq _ | .kah _ | .nop _ _ => u = s
  | .jci _ => u = s.clearInterrupt
  | .jtb _ => u = bitsTested s
  | .mov dest _ | .cmp dest _ => ∃ r, u = s.writeDest dest r
  | .mao dest source => ∃ r, u = (s.ovAfter (.mao (s.reg source))).writeDest dest r
  | .neg dest source => ∃ r, u = (s.ovAfter (.neg (s.reg source))).writeDest dest r
  | .xio _ _ _ _ => ∃ ev, u = s.record ev ∨ ∃ dst w, u = (s.storeInput dst w).record ev
  | .internalTest _ => ∃ tested, u = s.clearOvIf tested
  | .internalSet _ => ∃ spio epi, u = (s.setSpio spio).setEpi epi
  | .internalInput _ => ∃ dst w, u = s.storeInput dst w
  | .cls _ _ | .cld _ _ | .prs _ _ | .prd _ _ | .trn _ | .nrm _ | .tal _ | .sst _ | .lst _ | .pin _ _ _ | .xec _
  | .smm _ => False

/-- The instruction goes on, having changed what `Writes` says, and P. -/
def WritesAndGoesOn (i : Instr) (s t : State) : Prop := ∃ u m, Writes i s u ∧ t = u.setP m

/-- Where an instruction goes on by an advance, only P is still to be written. -/
theorem advance_writes {i : Instr} {at_ : Site} {s u t : State} (hw : Writes i s u) (h : advance at_ u = .next t) :
    WritesAndGoesOn i s t := by
  obtain ⟨m, _, rfl⟩ := advance_eq_next.1 h
  exact ⟨u, m, hw, rfl⟩

/-- The same by a jump. -/
theorem jumpTo_writes {i : Instr} {a : Addr} {s u t : State} (hw : Writes i s u) (h : jumpTo a u = .next t) :
    WritesAndGoesOn i s t := ⟨u, a, hw, jumpTo_eq_next.1 h⟩

/-- DVD writes A, E and OV whether or not it divides. -/
theorem performDvd_writes {o : Form} {at_ : Site} {s t : State} (h : performDvd o at_ s = .next t) :
    WritesAndGoesOn (.dvd o) s t := by
  obtain ⟨v, _, h⟩ := withValue_eq_next.1 h
  split at h
  · next q r _ =>
    obtain ⟨m, rfl⟩ := skip_eq_next h
    exact ⟨_, m, ⟨v, q, r, false, rfl⟩, rfl⟩
  · exact advance_writes ⟨v, Config.drawE s.draws, Config.drawA s.draws, true, rfl⟩ h

/-- DST writes the words at m and m + 1. -/
theorem performDst_writes {o : Form} {at_ : Site} {s t : State} (h : performDst o at_ s = .next t) :
    WritesAndGoesOn (.dst o) s t := by
  obtain ⟨m, _, h⟩ := withValue_eq_next.1 h
  obtain ⟨s', hs', h⟩ := withValue_eq_next.1 h
  obtain ⟨_, _, _, rfl⟩ := State.writeDouble_eq_ok.1 hs'
  exact advance_writes ⟨m, s.a, s.e, rfl⟩ h

/-- RTJ writes the return word. -/
theorem performRtj_writes {o : Form} {at_ : Site} {s t : State} (h : performRtj o at_ s = .next t) :
    WritesAndGoesOn (.rtj o) s t := by
  obtain ⟨m, _, h⟩ := withValue_eq_next.1 h
  obtain ⟨w, _, h⟩ := withValue_eq_next.1 h
  obtain ⟨m1, _, h⟩ := withValue_eq_next.1 h
  obtain ⟨s', hs', h⟩ := withValue_eq_next.1 h
  obtain ⟨_, rfl⟩ := State.writeWord_eq_ok.1 hs'
  exact jumpTo_writes ⟨m, w, rfl⟩ h

/-- JTB leaves what the test of bits leaves. -/
theorem performJtb_writes {o : Form} {at_ : Site} {s t : State} (h : performJtb o at_ s = .next t) :
    WritesAndGoesOn (.jtb o) s t := by
  obtain ⟨_, _, h⟩ := withValue_eq_next.1 (h : jumpThroughTable o at_ s = .next t)
  obtain ⟨_, _, h⟩ := withValue_eq_next.1 h
  exact jumpTo_writes rfl h

/-- An external XIO adds an event, and an input that is performed writes its destination. -/
theorem performXio_writes {f : XioFunction} {bit8 k : Bool} {ed : BitVec 6} {at_ : Site} {s t : State}
    (h : performXio f bit8 k ed at_ s = .next t) : WritesAndGoesOn (.xio f bit8 k ed) s t := by
  cases f with
  | output src =>
    obtain ⟨_, _, h⟩ := withValue_eq_next.1 h
    obtain ⟨m, rfl⟩ := performOutput_eq_next h
    exact ⟨_, m, ⟨_, .inl rfl⟩, rfl⟩
  | outputBit =>
    obtain ⟨m, rfl⟩ := performOutput_eq_next h
    exact ⟨_, m, ⟨_, .inl rfl⟩, rfl⟩
  | control =>
    obtain ⟨m, rfl⟩ := performOutput_eq_next h
    exact ⟨_, m, ⟨_, .inl rfl⟩, rfl⟩
  | input dst =>
    obtain ⟨place, _, h⟩ := withValue_eq_next.1 h
    obtain ⟨m, iw, ev, rfl⟩ := performInput_eq_next h
    refine ⟨_, m, ⟨ev, ?_⟩, rfl⟩
    split
    · exact .inr ⟨place, iw, rfl⟩
    · exact .inl rfl

/-- Internal Set writes the allow flip-flops it selects, and the others their own value. -/
theorem performInternalSet_writes {src : XioSource} {at_ : Site} {s t : State}
    (h : performInternalSet src at_ s = .next t) : WritesAndGoesOn (.internalSet src) s t := by
  obtain ⟨dw, _, h⟩ := withValue_eq_next.1 h
  refine advance_writes ⟨if dw.getLsbD 9 then dw.getLsbD 0 else s.spio, if dw.getLsbD 10 then dw.getLsbD 0 else s.epi, ?_⟩ h
  cases dw.getLsbD 9 <;> cases dw.getLsbD 10 <;> rfl

/-- What an instruction can do, said once: where it goes on, at whatever place it is performed, it has changed what
`Writes` says, and P. -/
theorem performOne_writes {i : Instr} {at_ : Site} {s t : State} (h : performOne i at_ s = .next t) :
    WritesAndGoesOn i s t := by
  cases i
  case lda | lde | ldx1 | ldx2 | ldx4 =>
    obtain ⟨v, _, m, _, rfl⟩ := loadWith_eq_next.1 h
    exact ⟨_, m, ⟨v, rfl⟩, rfl⟩
  case sta | ste | stx1 | stx2 | stx4 | stz =>
    obtain ⟨m, _, _, n, _, rfl⟩ := storeWord_eq_next.1 h
    exact ⟨_, n, ⟨m, _, rfl⟩, rfl⟩
  case dla | mpy | lor | and | xor =>
    obtain ⟨v, _, h⟩ := withValue_eq_next.1 h
    exact advance_writes ⟨_, rfl⟩ h
  case add | sub | dad =>
    obtain ⟨v, _, h⟩ := withValue_eq_next.1 h
    exact advance_writes ⟨v, _, rfl⟩ h
  case dvd => exact performDvd_writes h
  case dst => exact performDst_writes h
  case axd1 | axd2 | axd4 => exact jumpTo_writes ⟨_, rfl⟩ h
  case jmp | jci =>
    obtain ⟨_, _, h⟩ := withValue_eq_next.1 h
    exact jumpTo_writes rfl h
  case jlz | jez | jgz =>
    obtain ⟨m, rfl⟩ := jumpIf_eq_next h
    exact ⟨s, m, rfl, rfl⟩
  case kal | kaq | kah =>
    simp only [performOne, performKal, performKaq, performKah] at h
    obtain ⟨m, rfl⟩ := compareWith_eq_next h
    exact ⟨s, m, rfl, rfl⟩
  case rtj => exact performRtj_writes h
  case jtb => exact performJtb_writes h
  case imt | amt0 | amt2 | amt3 | amt4 | amt5 | amt6 | amt7 =>
    obtain ⟨m, n, _, _, rfl⟩ := addToMemory_eq_next h
    exact ⟨_, n, ⟨m, _, _, _, rfl⟩, rfl⟩
  case rsa | rla | lla | csa | rsd | rld | lld | csd => exact advance_writes ⟨_, rfl⟩ h
  case lsa | lsd =>
    simp only [performOne, performLsa, performLsd] at h
    split at h
    · exact advance_writes ⟨_, rfl⟩ h
    · cases h
  case nop => exact advance_writes rfl h
  case xio => exact performXio_writes h
  case internalTest =>
    obtain ⟨dw, _, h⟩ := withValue_eq_next.1 h
    obtain ⟨m, rfl⟩ := skipIf_eq_next h
    exact ⟨_, m, ⟨dw.getLsbD 8, rfl⟩, rfl⟩
  case internalSet => exact performInternalSet_writes h
  case internalInput =>
    obtain ⟨place, _, h⟩ := withValue_eq_next.1 h
    exact advance_writes ⟨place, _, rfl⟩ h
  case mov | cmp | mao | neg => exact advance_writes ⟨_, rfl⟩ h
  case cls | cld | prs | prd | trn | nrm | tal | sst | lst | pin | xec | smm => cases h

/-- Every instruction but XEC and SMM is performed at its own place. -/
theorem exec_eq_performOne {i : Instr} (s : State) (hi : performsRemote i = false) :
    exec i s = performOne i (Site.own i.length s) s := by
  rw [exec_eq_execWith, ← performRemote_parameters]
  cases i
  case xec | smm => cases hi
  all_goals rfl

/-- What `exec` of an instruction other than XEC and SMM has changed. -/
theorem exec_writes {i : Instr} {s t : State} (hi : performsRemote i = false) (h : exec i s = .next t) :
    WritesAndGoesOn i s t := by
  rw [exec_eq_performOne s hi] at h
  exact performOne_writes h

-- What an instruction keeps.

/-- What `Writes` leaves alone, by the tables of the instructions that may change it. -/
def Spares (i : Instr) (s t : State) : Prop :=
  (mayChangeOv i = false → t.ov = s.ov) ∧ (mayClearOv i = false → s.ov = true → t.ov = true) ∧
    (mayChangeAllow i = false → t.spio = s.spio ∧ t.epi = s.epi) ∧
    (mayChangeIndex i = false → t.x1 = s.x1 ∧ t.x2 = s.x2 ∧ t.x4 = s.x4) ∧ (mayChangeE i = false → t.e = s.e)

/-- For XEC and SMM the tables promise nothing. -/
theorem spares_of_performsRemote {i : Instr} (s t : State) (hi : performsRemote i = true) : Spares i s t := by
  cases i
  case xec | smm => simp [Spares, mayChangeOv, mayClearOv, mayChangeAllow, mayChangeIndex, mayChangeE]
  all_goals cases hi

/-- What is written and what the tables let change fit together. -/
theorem Writes.spares {i : Instr} {s u : State} (h : Writes i s u) : Spares i s u := by
  cases i
  case cls | cld | prs | prd | trn | nrm | tal | sst | lst | pin | xec | smm => exact h.elim
  case' jmp | jlz | jez | jgz | kal | kaq | kah | nop | jci | jtb => subst h
  case' lda | lor | and | xor | rsa | lsa | rla | lla | csa | lde | ldx1 | ldx2 | ldx4 | dla | mpy | rsd | lsd | rld | lld
      | csd | axd1 | axd2 | axd4 | mov | cmp | mao | neg | internalTest => obtain ⟨_, rfl⟩ := h
  case' add | sub | dad | sta | ste | stx1 | stx2 | stx4 | stz | rtj | internalSet => obtain ⟨_, _, rfl⟩ := h
  case' dst => obtain ⟨_, _, _, rfl⟩ := h
  case' dvd | imt | amt0 | amt2 | amt3 | amt4 | amt5 | amt6 | amt7 => obtain ⟨_, _, _, _, rfl⟩ := h
  case' internalInput => obtain ⟨dst, w, rfl⟩ := h; obtain ⟨_, e⟩ | ⟨m, _, e⟩ := s.storeInput_cases dst w <;> rw [e]
  case' xio =>
    obtain ⟨ev, rfl | ⟨dst, w, rfl⟩⟩ := h
    on_goal 2 => obtain ⟨_, e⟩ | ⟨m, _, e⟩ := s.storeInput_cases dst w <;> rw [e]
  all_goals
    simp +contextual [Spares, mayChangeOv, mayClearOv, mayChangeAllow, mayChangeIndex, mayChangeE, bitsTested]

/-- P is none of what the tables are about. -/
theorem Spares.setP {i : Instr} {s u : State} (h : Spares i s u) (m : Addr) : Spares i s (u.setP m) := h

/-- Settles O59: XEC and SMM are excepted by the tables; every other instruction keeps what it does not write. -/
theorem flipFlopsAndRegistersAreKept : Obligations.FlipFlopsAndRegistersAreKept := by
  intro i s t h
  cases hi : performsRemote i with
  | true => exact spares_of_performsRemote s t hi
  | false =>
    obtain ⟨u, m, hw, rfl⟩ := exec_writes hi h
    exact hw.spares.setP m

end Sys2Proof.Machine
end

section
/-! The decoder and the encoder (`30_encoding.md`): the fields of the words the encoder writes, that decoding reads back every
well-formed instruction, and that what the decoder answers is well-formed. -/

namespace Sys2Proof.Machine

-- The fields of each kind of word: a field takes back, bit by bit, the part that was put in its place.

@[simp] theorem fieldOp_shortWord (op : BitVec 5) (x : BitVec 3) (d : BitVec 8) : fieldOp (shortWord op x d) = op := by
  grind [fieldOp, shortWord]
@[simp] theorem fieldX_shortWord (op : BitVec 5) (x : BitVec 3) (d : BitVec 8) : fieldX (shortWord op x d) = x := by
  grind [fieldX, shortWord]
@[simp] theorem fieldD_shortWord (op : BitVec 5) (x : BitVec 3) (d : BitVec 8) : fieldD (shortWord op x d) = d := by
  grind [fieldD, shortWord]

@[simp] theorem fieldOp_longWord (x : BitVec 3) (op : BitVec 5) (g : BitVec 3) : fieldOp (longWord x op g) = 0o37#5 := by
  grind [fieldOp, longWord]
@[simp] theorem fieldX_longWord (x : BitVec 3) (op : BitVec 5) (g : BitVec 3) : fieldX (longWord x op g) = x := by
  grind [fieldX, longWord]
@[simp] theorem fieldLongOp_longWord (x : BitVec 3) (op : BitVec 5) (g : BitVec 3) :
    fieldLongOp (longWord x op g) = op := by
  grind [fieldLongOp, longWord]
@[simp] theorem fieldG_longWord (x : BitVec 3) (op : BitVec 5) (g : BitVec 3) : fieldG (longWord x op g) = g := by
  grind [fieldG, longWord]

@[simp] theorem fieldOp_shiftWord (x : BitVec 3) (d8 : Bool) (n : BitVec 7) : fieldOp (shiftWord x d8 n) = 0o34#5 := by
  grind [fieldOp, shiftWord]
@[simp] theorem fieldX_shiftWord (x : BitVec 3) (d8 : Bool) (n : BitVec 7) : fieldX (shiftWord x d8 n) = x := by
  grind [fieldX, shiftWord]
@[simp] theorem fieldBit8_shiftWord (x : BitVec 3) (d8 : Bool) (n : BitVec 7) : fieldBit8 (shiftWord x d8 n) = d8 := by
  grind [fieldBit8, shiftWord]
@[simp] theorem fieldCount_shiftWord (x : BitVec 3) (d8 : Bool) (n : BitVec 7) : fieldCount (shiftWord x d8 n) = n := by
  grind [fieldCount, shiftWord]

@[simp] theorem fieldOp_movWord (dest : BitVec 5) (op : BitVec 2) (source : BitVec 3) :
    fieldOp (movWord dest op source) = 0o35#5 := by
  grind [fieldOp, movWord]
@[simp] theorem fieldDest_movWord (dest : BitVec 5) (op : BitVec 2) (source : BitVec 3) :
    fieldDest (movWord dest op source) = dest := by
  grind [fieldDest, movWord]
@[simp] theorem fieldBit6_movWord (dest : BitVec 5) (op : BitVec 2) (source : BitVec 3) :
    fieldBit6 (movWord dest op source) = false := by
  grind [fieldBit6, movWord]
@[simp] theorem fieldMovOp_movWord (dest : BitVec 5) (op : BitVec 2) (source : BitVec 3) :
    fieldMovOp (movWord dest op source) = op := by
  grind [fieldMovOp, movWord]
@[simp] theorem fieldG_movWord (dest : BitVec 5) (op : BitVec 2) (source : BitVec 3) :
    fieldG (movWord dest op source) = source := by
  grind [fieldG, movWord]

@[simp] theorem fieldOp_xioWord (x : BitVec 3) (c k : Bool) (ed : BitVec 6) : fieldOp (xioWord x c k ed) = 0o36#5 := by
  grind [fieldOp, xioWord]
@[simp] theorem fieldX_xioWord (x : BitVec 3) (c k : Bool) (ed : BitVec 6) : fieldX (xioWord x c k ed) = x := by
  grind [fieldX, xioWord]
@[simp] theorem fieldBit8_xioWord (x : BitVec 3) (c k : Bool) (ed : BitVec 6) : fieldBit8 (xioWord x c k ed) = c := by
  grind [fieldBit8, xioWord]
@[simp] theorem fieldBit7_xioWord (x : BitVec 3) (c k : Bool) (ed : BitVec 6) : fieldBit7 (xioWord x c k ed) = k := by
  grind [fieldBit7, xioWord]
@[simp] theorem fieldEd_xioWord (x : BitVec 3) (c k : Bool) (ed : BitVec 6) : fieldEd (xioWord x c k ed) = ed := by
  grind [fieldEd, xioWord]

/-- SST and LST are the row X = 7 of operation code 33 (`30_encoding.md` rule R116). -/
theorem statusWord_eq_shortWord (u : BitVec 7) (d1 : Bool) :
    statusWord u d1 = shortWord 0o33#5 7#3 (u ++ BitVec.ofBool d1) :=
  BitVec.append_assoc
@[simp] theorem fieldOp_statusWord (u : BitVec 7) (d1 : Bool) : fieldOp (statusWord u d1) = 0o33#5 := by
  rw [statusWord_eq_shortWord, fieldOp_shortWord]
@[simp] theorem fieldX_statusWord (u : BitVec 7) (d1 : Bool) : fieldX (statusWord u d1) = 7#3 := by
  rw [statusWord_eq_shortWord, fieldX_shortWord]
@[simp] theorem fieldUndescribed_statusWord (u : BitVec 7) (d1 : Bool) : fieldUndescribed (statusWord u d1) = u := by
  grind [fieldUndescribed, statusWord]
@[simp] theorem fieldBit1_statusWord (u : BitVec 7) (d1 : Bool) : fieldBit1 (statusWord u d1) = d1 := by
  grind [fieldBit1, statusWord]

@[simp] theorem fieldOp_pinWord (x : BitVec 3) (n : BitVec 5) : fieldOp (pinWord x n) = 0o37#5 := by
  grind [fieldOp, pinWord]
@[simp] theorem fieldX_pinWord (x : BitVec 3) (n : BitVec 5) : fieldX (pinWord x n) = x := by
  grind [fieldX, pinWord]
@[simp] theorem fieldN_pinWord (x : BitVec 3) (n : BitVec 5) : fieldN (pinWord x n) = n := by
  grind [fieldN, pinWord]

/-- The long operation code of PIn is 34 to 37: its two low bits are those of N (`30_encoding.md` rule R120). -/
theorem fieldLongOp_pinWord (x : BitVec 3) (n : BitVec 5) : fieldLongOp (pinWord x n) = 7#3 ++ n.extractLsb' 3 2 := by
  grind [fieldLongOp, pinWord]

-- Decoding after encoding.

@[simp] theorem Modifier.ofBits_toBits (x : Modifier) : Modifier.ofBits x.toBits = x := by
  cases x <;> rfl

/-- The first instruction of a list of words is in its first word alone, or in its first two. -/
theorem decodeWords_eq_ok {words rest : List Word} {i : Instr} :
    decodeWords words = .ok (i, rest) ↔
      (∃ w, words = w :: rest ∧ isTwoWord w = false ∧ decode w 0#16 = .ok i) ∨
        ∃ w w2, words = w :: w2 :: rest ∧ isTwoWord w = true ∧ decode w w2 = .ok i := by
  have map_ok (r : Except DecodeError Instr) (tail : List Word) :
      r.map (fun i => (i, tail)) = .ok (i, rest) ↔ r = .ok i ∧ tail = rest := by
    cases r <;> simp [Except.map]
  match words with
  | [] => simp [decodeWords]
  | [w] => cases h : isTwoWord w <;> simp [decodeWords, h, map_ok, and_comm]
  | w :: w2 :: tail => cases h : isTwoWord w <;> simp [decodeWords, h, map_ok, and_comm]

/-- What an instruction of one word decodes to. -/
theorem decodeWords_one {w : Word} {i : Instr} (rest : List Word) (h : isTwoWord w = false) (hd : decode w 0#16 = .ok i) :
    decodeWords (w :: rest) = .ok (i, rest) := decodeWords_eq_ok.2 (.inl ⟨w, rfl, h, hd⟩)

/-- What an instruction of two words decodes to. -/
theorem decodeWords_two {w w2 : Word} {i : Instr} (rest : List Word) (h : isTwoWord w = true) (hd : decode w w2 = .ok i) :
    decodeWords (w :: w2 :: rest) = .ok (i, rest) := decodeWords_eq_ok.2 (.inr ⟨w, w2, rfl, h, hd⟩)

theorem decode_longWord (x : BitVec 3) (op : BitVec 5) (g : BitVec 3) (w2 : Word) :
    decode (longWord x op g) w2 = decodeLong (longWord x op g) w2 false := decode_long w2 (fieldOp_longWord x op g)

theorem decode_shiftWord (x : BitVec 3) (d8 : Bool) (n : BitVec 7) (w2 : Word) :
    decode (shiftWord x d8 n) w2 = .ok (decodeShift (shiftWord x d8 n)) := by simp [decode]

theorem decode_xioWord (x : BitVec 3) (c k : Bool) (ed : BitVec 6) (w2 : Word) :
    decode (xioWord x c k ed) w2 =
      if ed = 0#6 then decodeInternalXio x c k w2 else .ok (.xio (xioFunctionOf x w2) c k ed) := by
  simp [decode, decodeXio]

/-- The long operation codes 34 to 37 are PIn, whatever N is (`30_encoding.md` rule R120). -/
theorem decode_pinWord (x : Modifier) (n : BitVec 5) (w2 : Word) :
    decode (pinWord x.toBits n) w2 = admitLong (.pin x n w2) := by
  have four (k : BitVec 2) : k = 0#2 ∨ k = 1#2 ∨ k = 2#2 ∨ k = 3#2 := by revert k; decide
  have hop := fieldLongOp_pinWord x.toBits n
  rw [decode_long w2 (fieldOp_pinWord x.toBits n)]
  obtain h | h | h | h := four (n.extractLsb' 3 2) <;> simp [decodeLong, hop, h]

/-- An instruction of the long format is read back where its long row is. -/
theorem decodeWords_long {x : BitVec 3} {op : BitVec 5} {g : BitVec 3} {w2 : Word} {i : Instr} (rest : List Word)
    (h : decodeLong (longWord x op g) w2 false = .ok i) : decodeWords (longWord x op g :: w2 :: rest) = .ok (i, rest) :=
  decodeWords_two rest (by simp [isTwoWord]) (by rw [decode_longWord, h])

/-- An S/L instruction is read back in both formats where its short row and its long row are. -/
theorem decodeWords_form {mk : Form → Instr} {op : BitVec 5} {o : Form} (rest : List Word)
    (hop : op ≠ 0o36#5 ∧ op ≠ 0o37#5) (hwf : (mk o).wellFormed = true)
    (hs : ∀ x d, (mk (.short x d)).wellFormed = true → decode (shortWord op x.toBits d) 0#16 = .ok (mk (.short x d)))
    (hl : ∀ x g w2, (mk (.long x g w2)).wellFormed = true →
      decodeLong (longWord x.toBits op g) w2 false = .ok (mk (.long x g w2))) :
    decodeWords (o.encode op ++ rest) = .ok (mk o, rest) := by
  cases o with
  | short x d => exact decodeWords_one rest (by simp [isTwoWord, hop]) (hs x d hwf)
  | long x g w2 => exact decodeWords_long rest (hl x g w2 hwf)

/-- An XIO is read back where its function is. -/
theorem decodeWords_xioWords {f : XioFunction} {c k : Bool} {ed : BitVec 6} {i : Instr} (rest : List Word)
    (h : ∀ w2, xioFunctionOf f.encode.1 w2 = f → decode (xioWord f.encode.1 c k ed) w2 = .ok i) :
    decodeWords (xioWords f.encode c k ed ++ rest) = .ok (i, rest) := by
  have one (x : BitVec 3) (hx : f.encode = (x, [])) (h0 : isTwoWord (xioWord x c k ed) = false)
      (hf : xioFunctionOf x 0#16 = f) : decodeWords (xioWords f.encode c k ed ++ rest) = .ok (i, rest) := by
    rw [hx] at h ⊢
    exact decodeWords_one rest h0 (h _ hf)
  have two (x : BitVec 3) (w2 : Word) (hx : f.encode = (x, [w2])) (h0 : isTwoWord (xioWord x c k ed) = true)
      (hf : xioFunctionOf x w2 = f) : decodeWords (xioWords f.encode c k ed ++ rest) = .ok (i, rest) := by
    rw [hx] at h ⊢
    exact decodeWords_two rest h0 (h _ hf)
  cases f with
  | output src =>
    cases src with
    | next data => exact two 0#3 data rfl (by simp [isTwoWord]) rfl
    | via address => exact two 1#3 address rfl (by simp [isTwoWord]) rfl
    | a => exact one 3#3 rfl (by simp [isTwoWord]) rfl
  | outputBit => exact one 2#3 rfl (by simp [isTwoWord]) rfl
  | input dst =>
    cases dst with
    | next old => exact two 4#3 old rfl (by simp [isTwoWord]) rfl
    | via address => exact two 5#3 address rfl (by simp [isTwoWord]) rfl
    | a => exact one 7#3 rfl (by simp [isTwoWord]) rfl
  | control => exact one 6#3 rfl (by simp [isTwoWord]) rfl

/-- Decoding reads back every well-formed instruction from its words, whatever follows them, and leaves what follows. -/
theorem decodeWords_encode {i : Instr} (rest : List Word) (h : i.wellFormed = true) :
    decodeWords (encode i ++ rest) = .ok (i, rest) := by
  cases i
  case add | sub | mpy | dvd | lor | and | xor | kal | kaq | kah =>
    exact decodeWords_form rest (by decide) h (by simp [decode, admitRead1, Form.wfRead1])
      (by simp [decodeLong, admitRead1, Form.wfRead1])
  case jmp | jci | rtj | jtb | jgz | jez | jlz | dad | dst | dla | xec =>
    exact decodeWords_form rest (by decide) h
      (by simp +contextual [decode, admitAddress, Form.wfAddress, Instr.wellFormed])
      (by simp +contextual [decodeLong, admitAddress, Form.wfAddress, Instr.wellFormed, designatorXec])
  case lda | lde =>
    refine decodeWords_form rest (by decide) h (by simp [decode, admitRead1, Form.wfRead1]) fun x g w2 hg => ?_
    simp only [Instr.wellFormed, Form.wfRead1, designatorA_iff, designatorE_iff] at hg
    obtain rfl | rfl := hg <;> simp [decodeLong, admitRead1, Form.wfRead1, designatorA, designatorE]
  case sta | ste =>
    refine decodeWords_form rest (by decide) h
      (by simp +contextual [decode, admitLocation, Form.wfLocation, Instr.wellFormed]) fun x g w2 hg => ?_
    simp only [Instr.wellFormed, Form.wfLocation, designatorA_iff, designatorE_iff] at hg
    obtain rfl | rfl := hg <;> simp [decodeLong, admitLocation, Form.wfLocation, designatorA, designatorE]
  case imt =>
    exact decodeWords_form rest (by decide) h
      (by simp +contextual [decode, admitLocation, Form.wfLocation, Instr.wellFormed])
      (by simp +contextual [decodeLong, admitLocation, Form.wfLocation, Instr.wellFormed])
  case ldx1 alt _ _ | ldx2 alt _ _ | ldx4 alt _ _ =>
    exact decodeWords_long rest (by cases alt <;> simp [decodeLong, loadIndexOp])
  case stx1 alt _ _ | stx2 alt _ _ | stx4 alt _ _ | stz alt _ _ =>
    exact decodeWords_long rest (by cases alt <;> simp [decodeLong, storeIndexOp])
  case amt0 | amt2 | amt3 | amt4 | amt5 | amt6 | amt7 => exact decodeWords_long rest (by simp [decodeLong])
  case smm => exact decodeWords_long rest (by simp [decodeLong, Modifier.ofBits])
  case cls | cld | prs | prd => exact decodeWords_long rest (by simpa [decodeLong, admitLong] using h)
  case pin => exact decodeWords_two rest (by simp [isTwoWord]) (by rw [decode_pinWord, admitLong, if_pos h])
  case axd1 | axd2 | axd4 | sst | lst =>
    exact decodeWords_one rest (by simp [isTwoWord]) (by simp [decode, decodeStatusGroup])
  case rsa n | rsd n | rld n | lsa n | lsd n | rla n | lla n | lld n | csa n | csd n | trn n | nrm n | tal n =>
    have hn : n ≠ 0#7 := by simpa [Instr.wellFormed] using h
    exact decodeWords_one rest (by simp [isTwoWord]) (by simp [decode_shiftWord, decodeShift, hn])
  case nop => exact decodeWords_one rest (by simp [isTwoWord]) (by simp [decode_shiftWord, decodeShift])
  case mov | cmp | mao | neg => exact decodeWords_one rest (by simp [isTwoWord]) (by simp [decode, decodeMov])
  case xio ed =>
    have hed : ed ≠ 0#6 := by simpa [Instr.wellFormed] using h
    exact decodeWords_xioWords rest fun w2 hf => by rw [decode_xioWord, if_neg hed, hf]
  case internalTest src | internalSet src =>
    exact decodeWords_xioWords (f := .output src) rest fun w2 hf => by simp [decode_xioWord, decodeInternalXio, hf]
  case internalInput dst =>
    exact decodeWords_xioWords (f := .input dst) rest fun w2 hf => by simp [decode_xioWord, decodeInternalXio, hf]

-- What the decoder answers is well-formed.

theorem admitRead1_wellFormed {g? : BitVec 3 → Bool} {mk : Form → Instr} {o : Form} {i : Instr}
    (hmk : o.wfRead1 g? = true → (mk o).wellFormed = true) (h : admitRead1 g? mk o = .ok i) : i.wellFormed = true := by
  unfold admitRead1 at h
  split at h
  · next hw => cases h; exact hmk hw
  · cases h

theorem admitLocation_wellFormed {g? : BitVec 3 → Bool} {mk : Form → Instr} {o : Form} {i : Instr}
    (hmk : o.wfLocation g? = true → (mk o).wellFormed = true) (h : admitLocation g? mk o = .ok i) :
    i.wellFormed = true := by
  unfold admitLocation at h
  split at h
  · next hw => cases h; exact hmk hw
  · split at h <;> cases h

theorem admitAddress_wellFormed {g? : BitVec 3 → Bool} {mk : Form → Instr} {o : Form} {i : Instr}
    (hmk : o.wfAddress g? = true → (mk o).wellFormed = true) (h : admitAddress g? mk o = .ok i) :
    i.wellFormed = true := by
  unfold admitAddress at h
  split at h
  · next hw => cases h; exact hmk hw
  · split at h
    · cases h
    · split at h <;> cases h

theorem admitLong_wellFormed {i j : Instr} (h : admitLong j = .ok i) : i.wellFormed = true := by
  unfold admitLong at h
  split at h
  · next hw => cases h; exact hw
  · cases h

theorem decodeStatusGroup_wellFormed {w : Word} {i : Instr} (h : decodeStatusGroup w = .ok i) : i.wellFormed = true := by
  unfold decodeStatusGroup at h
  split at h
  case h_4 => cases h; split <;> rfl
  case h_5 => cases h
  all_goals cases h; rfl

theorem decodeShift_wellFormed (w : Word) : (decodeShift w).wellFormed = true := by
  by_cases hn : fieldCount w = 0#7
  · simp [decodeShift, hn, Instr.wellFormed]
  · have hcount : (fieldCount w != 0#7) = true := by simpa using hn
    simp only [decodeShift, hn, if_false]
    split
    case h_1 | h_3 | h_4 => exact hcount
    all_goals split <;> exact hcount

theorem decodeMov_wellFormed {w : Word} {i : Instr} (h : decodeMov w = .ok i) : i.wellFormed = true := by
  unfold decodeMov at h
  split at h
  · cases h
  · split at h <;> (cases h; rfl)

theorem decodeInternalXio_wellFormed {x : BitVec 3} {c k : Bool} {w2 : Word} {i : Instr}
    (h : decodeInternalXio x c k w2 = .ok i) : i.wellFormed = true := by
  unfold decodeInternalXio at h
  split at h
  case h_1 => cases c <;> cases k <;> cases h <;> rfl
  case h_2 => cases c <;> cases k <;> cases h; rfl
  all_goals cases h

theorem decodeXio_wellFormed {w w2 : Word} {i : Instr} (h : decodeXio w w2 = .ok i) : i.wellFormed = true := by
  unfold decodeXio at h
  split at h
  · exact decodeInternalXio_wellFormed h
  · next hed => cases h; simpa [Instr.wellFormed] using hed

/-- By the rows of the table: case `h_n` is operation code n - 1, or the last row. -/
theorem decodeLong_wellFormed {w w2 : Word} {i : Instr} (h : decodeLong w w2 false = .ok i) : i.wellFormed = true := by
  simp only [decodeLong] at h
  split at h
  case h_1 | h_2 | h_3 | h_5 | h_6 | h_7 | h_8 | h_17 | h_18 => exact admitAddress_wellFormed id h
  case h_11 | h_12 | h_14 | h_15 | h_21 | h_22 | h_23 | h_24 | h_25 | h_26 => exact admitRead1_wellFormed id h
  case h_27 | h_28 => cases h
  case h_29 => exact admitLong_wellFormed h
  case h_4 =>
    split at h
    · split at h <;> cases h
      rfl
    · exact admitAddress_wellFormed id h
  case h_9 | h_10 =>
    split at h
    case h_4 => exact admitRead1_wellFormed id h
    all_goals cases h; rfl
  case h_13 =>
    split at h
    case h_1 => exact admitAddress_wellFormed id h
    case h_6 => cases h
    all_goals exact admitLong_wellFormed h
  case h_16 =>
    split at h
    case h_2 => exact admitLocation_wellFormed id h
    all_goals cases h; rfl
  case h_19 | h_20 =>
    split at h
    case h_5 => exact admitLocation_wellFormed id h
    all_goals cases h; rfl

/-- What the decoder answers is well-formed, row by row; case `h_n` is operation code n - 1. -/
theorem decode_wellFormed {w w2 : Word} {i : Instr} (h : decode w w2 = .ok i) : i.wellFormed = true := by
  unfold decode at h
  split at h
  case h_16 | h_19 | h_20 => exact admitLocation_wellFormed id h
  case h_1 | h_2 | h_3 | h_4 | h_5 | h_6 | h_7 | h_8 | h_13 | h_17 | h_18 => exact admitAddress_wellFormed id h
  case h_27 => cases h
  case h_28 => exact decodeStatusGroup_wellFormed h
  case h_29 => cases h; exact decodeShift_wellFormed w
  case h_30 => exact decodeMov_wellFormed h
  case h_31 => exact decodeXio_wellFormed h
  case h_32 => exact decodeLong_wellFormed h
  all_goals exact admitRead1_wellFormed id h

end Sys2Proof.Machine
end

section
/-! Memory (`20_memory.md`): double words, the fetch of what was stored at P, the invariant kept by every step, and the
instructions that store nothing. -/

namespace Sys2Proof.Machine

-- Addresses.

theorem State.implemented_iff {s : State} {a : Addr} :
    s.implemented a = true ↔ addressSpace ≤ s.memWords ∨ a.toNat < s.memWords := by
  simp [State.implemented]

/-- The address after m is another one, at the top of the space too. -/
theorem address_succ_ne (m : Addr) : m + 1#15 ≠ m := by
  intro h
  have := congrArg BitVec.toNat h
  simp only [BitVec.toNat_add, BitVec.toNat_ofNat] at this
  omega

-- Double words.

/-- Storing at m + 1 leaves the word stored at m. -/
theorem State.word_putDouble_hi {s : State} (h : s.mem.wf = true) (m : Addr) (hi lo : Word) :
    ((s.putWord m hi).putWord (m + 1#15) lo).word m = hi := by
  rw [State.word_putWord_other _ lo (address_succ_ne m).symm, State.word_putWord_same s h]

theorem State.word_putDouble_lo {s : State} (h : s.mem.wf = true) (m : Addr) (hi lo : Word) :
    ((s.putWord m hi).putWord (m + 1#15) lo).word (m + 1#15) = lo :=
  State.word_putWord_same _ (Memory.wf_putWord s.mem h m hi) (m + 1#15) lo

theorem hasDouble.putDouble {s : State} {m : Addr} (h : hasDouble s m) (hi lo : Word) :
    hasDouble ((s.putWord m hi).putWord (m + 1#15) lo) m := h

/-- Settles O12: both words are installed, so the reads and the stores of the two halves complete. -/
theorem doubleWordHighHalfFirst : Obligations.DoubleWordHighHalfFirst := by
  intro s m h
  refine ⟨h.readDouble, fun hs hi lo => ⟨_, h.writeDouble hi lo, ?_, ?_, ?_⟩⟩
  · exact State.word_putDouble_hi (State.wf_of_wellFormed hs) m hi lo
  · exact State.word_putDouble_lo (State.wf_of_wellFormed hs) m hi lo
  · rw [(h.putDouble hi lo).readDouble, State.word_putDouble_hi (State.wf_of_wellFormed hs),
      State.word_putDouble_lo (State.wf_of_wellFormed hs)]

-- The fetch.

theorem decoded_eq_ok {w w2 : Word} {i : Instr} : decoded w w2 = .ok i ↔ decode w w2 = .ok i := by
  unfold decoded
  rw [parameters_longGStrict]
  split <;> simp_all

/-- The second word of an instruction at `m`, 0 for an instruction of one word. -/
theorem wordsAt.secondWord {s : State} {m : Addr} {w w2 : Word} (h : wordsAt s m w w2) :
    s.secondWord m w = .ok (if isTwoWord w then w2 else 0#16) := by
  obtain ⟨_, _, hsecond⟩ := h
  unfold State.secondWord
  split
  · next h2 =>
    obtain ⟨hlast, hi, hw2⟩ := hsecond h2
    exact bind_eq_ok.2 ⟨_, nextAddress_eq_ok.2 ⟨hlast, rfl⟩, State.readWord_eq_ok.2 ⟨hi, hw2⟩⟩
  · rfl

/-- The fetch decodes the words at P. -/
theorem wordsAt.fetch {s : State} {w w2 : Word} (h : wordsAt s s.p w w2) :
    s.fetch = decoded w (if isTwoWord w then w2 else 0#16) := by
  obtain ⟨hp, hw, _⟩ := id h
  rw [State.fetch, State.readWord_eq_ok.2 ⟨hp, hw⟩, bind_ok, h.secondWord, bind_ok]

-- The placing of an instruction.

/-- Whatever words follow, the first of them stands at P. -/
theorem State.word_withWordsAtP {s : State} (hs : s.mem.wf = true) (w : Word) (rest : List Word) :
    (s.withWordsAtP (w :: rest)).word s.p = w := by
  cases rest with
  | nil => exact State.word_putWord_same s hs s.p w
  | cons w2 tail =>
    simp only [State.withWordsAtP]
    split
    · exact State.word_putWord_same s hs s.p w
    · exact State.word_putDouble_hi hs s.p w w2

theorem State.withWordsAtP_two {s : State} (hp : s.p ≠ 0x7FFF#15) (w w2 : Word) (rest : List Word) :
    s.withWordsAtP (w :: w2 :: rest) = (s.putWord s.p w).putWord (s.p + 1#15) w2 := if_neg hp

@[simp] theorem State.withWordsAtP_p (s : State) (words : List Word) : (s.withWordsAtP words).p = s.p := by
  unfold State.withWordsAtP
  split <;> (try split) <;> rfl

@[simp] theorem State.withWordsAtP_implemented (s : State) (words : List Word) (a : Addr) :
    (s.withWordsAtP words).implemented a = s.implemented a := by
  unfold State.withWordsAtP
  split <;> (try split) <;> rfl

/-- The fetch takes the first instruction of the words placed at P. -/
theorem State.fetch_withWordsAtP {s : State} (hs : s.wellFormed = true) (hd : hasDouble s s.p) {words rest : List Word}
    {i : Instr} (h : decodeWords words = .ok (i, rest)) : (s.withWordsAtP words).fetch = .ok i := by
  have hmem := State.wf_of_wellFormed hs
  obtain ⟨hlast, hp, hp1⟩ := hd
  obtain ⟨w, rfl, h1, hi⟩ | ⟨w, w2, rfl, h2, hi⟩ := decodeWords_eq_ok.1 h
  · have hat : wordsAt (s.withWordsAtP (w :: rest)) (s.withWordsAtP (w :: rest)).p w 0#16 :=
      ⟨by simpa using hp, by simpa using State.word_withWordsAtP hmem w rest, by simp [h1]⟩
    rw [hat.fetch, h1]
    exact decoded_eq_ok.2 hi
  · have hat : wordsAt (s.withWordsAtP (w :: w2 :: rest)) (s.withWordsAtP (w :: w2 :: rest)).p w w2 := by
      rw [State.withWordsAtP_two hlast]
      exact ⟨hp, State.word_putDouble_hi hmem s.p w w2, fun _ => ⟨hlast, hp1, State.word_putDouble_lo hmem s.p w w2⟩⟩
    rw [hat.fetch, h2]
    exact decoded_eq_ok.2 hi

/-- Words laid out as byte cells are read back as the same words (log 4). -/
theorem wordsOfBytes_bytesOfWords (words : List Word) : wordsOfBytes (bytesOfWords words) = words := by
  induction words with
  | nil => rfl
  | cons w rest ih => rw [bytesOfWords, wordsOfBytes, ih, word_of_halves]

/-- The instruction of a table word is the first one of its words. -/
theorem decodeTableWord_eq_some {nbits w : Nat} {i : Instr} :
    decodeTableWord nbits w = some i ↔ ∃ rest, decodeWords (tableWords nbits w) = .ok (i, rest) := by
  unfold decodeTableWord decodeBytes
  rw [wordsOfBytes_bytesOfWords]
  cases decodeWords (tableWords nbits w) <;> simp [Except.map, Prod.ext_iff]

/-- Settles O55: the words of a well-formed instruction, and those of a table word that decodes, begin with an instruction,
which is the one fetched. -/
theorem storedInstructionIsFetched : Obligations.StoredInstructionIsFetched := by
  intro s hs hd
  refine ⟨fun i hi => ?_, fun nbits w i h => ?_⟩
  · exact State.fetch_withWordsAtP hs hd (by simpa using decodeWords_encode [] hi)
  · obtain ⟨rest, h⟩ := decodeTableWord_eq_some.1 h
    exact State.fetch_withWordsAtP hs hd h

-- The instructions that touch neither memory nor the history.

/-- The instructions that may write memory or the I/O history at their own place: the stores, RTJ, IMT, AMTn, the external
XIO and Internal Input. -/
def mayWriteStore : Instr → Bool
  | .sta _ | .ste _ | .dst _ | .stx1 _ _ _ | .stx2 _ _ _ | .stx4 _ _ _ | .stz _ _ _ | .rtj _ | .imt _ => true
  | .amt0 _ _ | .amt2 _ _ | .amt3 _ _ | .amt4 _ _ | .amt5 _ _ | .amt6 _ _ | .amt7 _ _ => true
  | .xio _ _ _ _ | .internalInput _ => true
  | _ => false

/-- The list of memory cells, the number of installed words and the I/O history are the same. -/
def KeepsStore (s t : State) : Prop := t.mem = s.mem ∧ t.memWords = s.memWords ∧ t.io = s.io

/-- What every other instruction writes is a register or a flip-flop. -/
theorem Writes.keepsStore {i : Instr} {s u : State} (h : Writes i s u) (hi : mayWriteStore i = false) : KeepsStore s u := by
  cases i
  case sta | ste | dst | stx1 | stx2 | stx4 | stz | rtj | imt | amt0 | amt2 | amt3 | amt4 | amt5 | amt6 | amt7 | xio
      | internalInput => cases hi
  case cls | cld | prs | prd | trn | nrm | tal | sst | lst | pin | xec | smm => exact h.elim
  case jmp | jlz | jez | jgz | kal | kaq | kah | nop | jci | jtb => subst h; exact ⟨rfl, rfl, rfl⟩
  case add | sub | dad | internalSet => obtain ⟨_, _, rfl⟩ := h; exact ⟨rfl, rfl, rfl⟩
  case dvd => obtain ⟨_, _, _, _, rfl⟩ := h; exact ⟨rfl, rfl, rfl⟩
  all_goals obtain ⟨_, rfl⟩ := h; exact ⟨rfl, rfl, rfl⟩

theorem performOne_keepsStore {i : Instr} {at_ : Site} {s t : State} (hi : mayWriteStore i = false)
    (h : performOne i at_ s = .next t) : KeepsStore s t := by
  obtain ⟨u, m, hw, rfl⟩ := performOne_writes h
  exact hw.keepsStore hi

-- What keeps the invariant.

/-- The invariant is about memory, its size and the history only. -/
theorem wellFormed_of_keepsStore {s t : State} (h : KeepsStore s t) (hs : s.wellFormed = true) : t.wellFormed = true := by
  obtain ⟨hmem, hwords, hio⟩ := h
  simpa only [State.wellFormed, hmem, hwords, hio] using hs

theorem wellFormed_setP {s : State} (hs : s.wellFormed = true) (m : Addr) : (s.setP m).wellFormed = true := hs

/-- A store in an installed word keeps the invariant. -/
theorem wellFormed_putWord {s : State} (hs : s.wellFormed = true) {m : Addr} (hm : s.implemented m = true) (w : Word) :
    (s.putWord m w).wellFormed = true := by
  obtain ⟨hmem, hlow, hhigh, hio⟩ := State.wellFormed_iff.1 hs
  have hlt : m.toNat < s.memWords := by
    have := m.isLt
    have := State.implemented_iff.1 hm
    unfold addressSpace at *
    omega
  refine State.wellFormed_iff.2 ⟨Memory.wfBetween_putWord _ hmem m w (Nat.zero_le _) ?_, hlow, hhigh, hio⟩
  simp only [cellOf]
  omega

/-- So does the recording of an event as external XIOs build it. -/
theorem wellFormed_record {s : State} (hs : s.wellFormed = true) {ev : IoEvent} (hev : ioEventWf ev = true) :
    (s.record ev).wellFormed = true := by
  obtain ⟨hmem, hlow, hhigh, hio⟩ := State.wellFormed_iff.1 hs
  exact State.wellFormed_iff.2 ⟨hmem, hlow, hhigh, by simp [State.record, List.all_append, hio, hev]⟩

-- The stores.

/-- DST writes two installed words. -/
theorem performDst_eq_next {o : Form} {at_ : Site} {s t : State} (h : performDst o at_ s = .next t) :
    ∃ m n, hasDouble s m ∧ t = ((s.putWord m s.a).putWord (m + 1#15) s.e).setP n := by
  obtain ⟨m, _, h⟩ := withValue_eq_next.1 h
  obtain ⟨s', hs', h⟩ := withValue_eq_next.1 h
  obtain ⟨hm, hlast, hm1, rfl⟩ := State.writeDouble_eq_ok.1 hs'
  obtain ⟨n, _, rfl⟩ := advance_eq_next.1 h
  exact ⟨m, n, ⟨hlast, hm, hm1⟩, rfl⟩

/-- RTJ writes an installed word. -/
theorem performRtj_eq_next {o : Form} {at_ : Site} {s t : State} (h : performRtj o at_ s = .next t) :
    ∃ m w n, s.implemented m = true ∧ t = (s.putWord m w).setP n := by
  obtain ⟨m, _, h⟩ := withValue_eq_next.1 h
  obtain ⟨w, _, h⟩ := withValue_eq_next.1 h
  obtain ⟨m1, _, h⟩ := withValue_eq_next.1 h
  obtain ⟨s', hs', h⟩ := withValue_eq_next.1 h
  obtain ⟨hm, rfl⟩ := State.writeWord_eq_ok.1 hs'
  exact ⟨m, w, m1, hm, jumpTo_eq_next.1 h⟩

-- Input and output.

/-- The place of an input word is an installed word, or A. -/
theorem State.destLocation_implemented {s : State} {at_ : Site} {dst : XioDest} {m : Addr} {c : Parameters}
    (h : s.destLocation at_ dst c = .ok (some m)) : s.implemented m = true := by
  have located {r : Except Stop Addr} (h : (r.bind fun m => (s.readWord m).map fun _ => some m) = .ok (some m)) :
      s.implemented m = true := by
    obtain ⟨a, _, h⟩ := bind_eq_ok.1 h
    obtain ⟨w, hr, e⟩ := map_eq_ok.1 h
    cases e
    exact (State.readWord_eq_ok.1 hr).1
  cases dst with
  | next old => exact located h
  | via address => exact located h
  | a => cases h

/-- An input word at its destination keeps the invariant. -/
theorem wellFormed_storeInput {s : State} {at_ : Site} {dst : XioDest} {place : Option Addr} (hs : s.wellFormed = true)
    (h : s.destLocation at_ dst = .ok place) (w : Word) : (s.storeInput place w).wellFormed = true := by
  cases place with
  | none => exact hs
  | some m => exact wellFormed_putWord hs (State.destLocation_implemented h) w

/-- An external input records the word it takes in, if performed, and that word goes to its destination. -/
theorem performInput_records {f : XioFunction} {dst : Option Addr} {bit8 k : Bool} {ed : BitVec 6} {at_ : Site} {s t : State}
    (h : performInput f dst bit8 k ed at_ s = .next t) :
    ∃ m iw, t = ((if k || deviceReady k ed s then s.storeInput dst iw else s).record
      ⟨ed, f.encode.1, xioMode f bit8, k, k || deviceReady k ed s, none,
        if k || deviceReady k ed s then some iw else none⟩).setP m := by
  unfold performInput at h
  obtain ⟨m, rfl⟩ := skipIf_eq_next h
  exact ⟨m, _, rfl⟩

section
variable {ed : BitVec 6} (hed : ed ≠ 0#6) (mode : IoMode) (k ready : Bool)
include hed

/-- The events of the four kinds of external function are as `47_input_output.md` rules R282 to R284 build them. -/
theorem ioEventWf_output (src : XioSource) (w : Word) :
    ioEventWf ⟨ed, (XioFunction.output src).encode.1, mode, k, k || ready, if k || ready then some w else none, none⟩ =
      true := by
  cases src <;> cases k <;> cases ready <;> simp [ioEventWf, XioFunction.encode, XioSource.encode, hed]

theorem ioEventWf_outputBit (w : Word) :
    ioEventWf ⟨ed, XioFunction.outputBit.encode.1, .direct, k, k || ready, if k || ready then some w else none, none⟩ =
      true := by
  cases k <;> cases ready <;> simp [ioEventWf, XioFunction.encode, hed]

theorem ioEventWf_control :
    ioEventWf ⟨ed, XioFunction.control.encode.1, mode, k, k || ready, if k || ready then none else none, none⟩ = true := by
  cases k <;> cases ready <;> simp [ioEventWf, XioFunction.encode, hed]

theorem ioEventWf_input (dst : XioDest) (w : Word) :
    ioEventWf ⟨ed, (XioFunction.input dst).encode.1, mode, k, k || ready, none, if k || ready then some w else none⟩ =
      true := by
  cases dst <;> cases k <;> cases ready <;> simp [ioEventWf, XioFunction.encode, XioDest.encode, hed]

end

/-- An external XIO adds one event, as the rules build it for an external device, and only an input changes anything else:
its destination. -/
theorem performXio_records {f : XioFunction} {bit8 k : Bool} {ed : BitVec 6} {at_ : Site} {s t : State}
    (h : performXio f bit8 k ed at_ s = .next t) :
    ∃ u ev m, t = (u.record ev).setP m ∧ (ed ≠ 0#6 → ioEventWf ev = true) ∧
      (u = s ∨ ∃ dst place w, f = .input dst ∧ s.destLocation at_ dst = .ok place ∧ u = s.storeInput place w) := by
  cases f with
  | output src =>
    obtain ⟨w, _, h⟩ := withValue_eq_next.1 h
    obtain ⟨m, rfl⟩ := performOutput_eq_next h
    exact ⟨s, _, m, rfl, fun hed => ioEventWf_output hed _ k _ src w, .inl rfl⟩
  | outputBit =>
    obtain ⟨m, rfl⟩ := performOutput_eq_next h
    exact ⟨s, _, m, rfl, fun hed => ioEventWf_outputBit hed k _ _, .inl rfl⟩
  | control =>
    obtain ⟨m, rfl⟩ := performOutput_eq_next h
    exact ⟨s, _, m, rfl, fun hed => ioEventWf_control hed _ k _, .inl rfl⟩
  | input dst =>
    obtain ⟨place, hplace, h⟩ := withValue_eq_next.1 h
    obtain ⟨m, iw, rfl⟩ := performInput_records h
    refine ⟨_, _, m, rfl, fun hed => ioEventWf_input hed _ k _ dst iw, ?_⟩
    split
    · exact .inr ⟨dst, place, iw, rfl, hplace, rfl⟩
    · exact .inl rfl

-- The instructions.

/-- At whatever place it is performed, a well-formed instruction keeps the invariant. -/
theorem performOne_wellFormed {i : Instr} {at_ : Site} {s t : State} (hs : s.wellFormed = true) (hi : i.wellFormed = true)
    (h : performOne i at_ s = .next t) : t.wellFormed = true := by
  cases i
  case sta | ste | stx1 | stx2 | stx4 | stz =>
    obtain ⟨m, _, hm, n, _, rfl⟩ := storeWord_eq_next.1 h
    exact wellFormed_setP (wellFormed_putWord hs hm _) n
  case imt | amt0 | amt2 | amt3 | amt4 | amt5 | amt6 | amt7 =>
    obtain ⟨m, n, _, hm, rfl⟩ := addToMemory_eq_next h
    exact wellFormed_of_keepsStore ⟨rfl, rfl, rfl⟩ (wellFormed_putWord hs hm _)
  case dst =>
    obtain ⟨m, n, ⟨_, hm, hm1⟩, rfl⟩ := performDst_eq_next h
    exact wellFormed_setP (wellFormed_putWord (wellFormed_putWord hs hm s.a) hm1 s.e) n
  case rtj =>
    obtain ⟨m, w, n, hm, rfl⟩ := performRtj_eq_next h
    exact wellFormed_setP (wellFormed_putWord hs hm w) n
  case xio =>
    obtain ⟨u, ev, m, rfl, hev, hu⟩ := performXio_records h
    refine wellFormed_setP (wellFormed_record ?_ (hev (by simpa [Instr.wellFormed] using hi))) m
    obtain rfl | ⟨dst, place, w, _, hplace, rfl⟩ := hu
    · exact hs
    · exact wellFormed_storeInput hs hplace w
  case internalInput =>
    obtain ⟨place, hplace, h⟩ := withValue_eq_next.1 h
    obtain ⟨n, _, rfl⟩ := advance_eq_next.1 h
    exact wellFormed_setP (wellFormed_storeInput hs hplace _) n
  all_goals exact wellFormed_of_keepsStore (performOne_keepsStore rfl h) hs

/-- What XEC or SMM fetches is well-formed. -/
theorem State.fetchRemote_wellFormed {s : State} {m : Addr} {i : Instr} (h : s.fetchRemote m = .ok i) :
    i.wellFormed = true := by
  obtain ⟨_, _, h⟩ := bind_eq_ok.1 h
  obtain ⟨_, _, h⟩ := bind_eq_ok.1 h
  exact decode_wellFormed (decoded_eq_ok.1 h)

/-- What a step fetches is well-formed. -/
theorem State.fetch_wellFormed {s : State} {i : Instr} (h : s.fetch = .ok i) : i.wellFormed = true := by
  obtain ⟨_, _, h⟩ := bind_eq_ok.1 h
  obtain ⟨_, _, h⟩ := bind_eq_ok.1 h
  exact decode_wellFormed (decoded_eq_ok.1 h)

/-- XEC and SMM perform a fetched instruction of the admitted set, SMM with Monitor Master set. -/
theorem exec_remote_eq_next {i : Instr} {s t : State} (hi : performsRemote i = true) (h : exec i s = .next t) :
    ∃ u m r, (u = s ∨ u = s.setMonitorMaster) ∧ u.fetchRemote m = .ok r ∧ admitted r = true ∧
      performOne r (Site.own i.length s) u = .next t := by
  cases i
  case xec o =>
    obtain ⟨m, _, h⟩ := withValue_eq_next.1 h
    obtain ⟨r, hf, ha, h⟩ := runRemote_eq_next.1 h
    exact ⟨s, m, r, .inl rfl, hf, ha, performRemote_parameters r _ s ▸ h⟩
  case smm w2 =>
    obtain ⟨_, _, h⟩ := withValue_eq_next.1 h
    obtain ⟨_, _, h⟩ := withValue_eq_next.1 h
    obtain ⟨m, _, h⟩ := withValue_eq_next.1 h
    obtain ⟨r, hf, ha, h⟩ := runRemote_eq_next.1 h
    exact ⟨_, m, r, .inr rfl, hf, ha, performRemote_parameters r _ _ ▸ h⟩
  all_goals cases hi

theorem exec_wellFormed {i : Instr} {s t : State} (hs : s.wellFormed = true) (hi : i.wellFormed = true)
    (h : exec i s = .next t) : t.wellFormed = true := by
  cases hr : performsRemote i with
  | false =>
    rw [exec_eq_performOne s hr] at h
    exact performOne_wellFormed hs hi h
  | true =>
    obtain ⟨u, m, r, hu, hf, _, h⟩ := exec_remote_eq_next hr h
    have hwf : u.wellFormed = true := by obtain rfl | rfl := hu <;> exact hs
    exact performOne_wellFormed hwf (State.fetchRemote_wellFormed hf) h

/-- Settles O52: the fetched instruction is well-formed, so its execution keeps the invariant, and the step counter is no
part of it. -/
theorem stepKeepsWellFormed : Obligations.StepKeepsWellFormed := by
  intro s t hs h
  obtain ⟨_, i, hf, s', hexec, rfl⟩ := step_eq_next.1 h
  exact wellFormed_of_keepsStore (s := s') ⟨rfl, rfl, rfl⟩ (exec_wellFormed hs (State.fetch_wellFormed hf) hexec)

-- The instructions that store nothing.

/-- An input word for A leaves memory alone. -/
theorem storeInput_a_mem {s : State} {at_ : Site} {place : Option Addr} (h : s.destLocation at_ .a = .ok place) (w : Word) :
    (s.storeInput place w).mem = s.mem := by
  cases h
  rfl

/-- At whatever place it is performed, an instruction that stores nothing keeps memory. -/
theorem performOne_keepsMem {i : Instr} {at_ : Site} {s t : State} (hi : storesNothing i = true)
    (h : performOne i at_ s = .next t) : t.mem = s.mem := by
  cases i
  case xio f bit8 k ed =>
    obtain ⟨u, ev, m, rfl, _, hu⟩ := performXio_records h
    obtain rfl | ⟨dst, place, w, rfl, hplace, rfl⟩ := hu
    · rfl
    · obtain rfl : dst = .a := by simpa [storesNothing] using hi
      exact storeInput_a_mem hplace w
  case internalInput dst =>
    obtain ⟨place, hplace, h⟩ := withValue_eq_next.1 h
    obtain ⟨n, _, rfl⟩ := advance_eq_next.1 h
    obtain rfl : dst = .a := by simpa [storesNothing] using hi
    exact storeInput_a_mem hplace _
  case sta | ste | dst | stx1 | stx2 | stx4 | stz | rtj | imt | amt0 | amt2 | amt3 | amt4 | amt5 | amt6 | amt7 => cases hi
  all_goals exact (performOne_keepsStore rfl h).1

/-- XEC and SMM are not among the instructions that store nothing. -/
theorem performsRemote_of_storesNothing {i : Instr} (hi : storesNothing i = true) : performsRemote i = false := by
  cases i
  case xec | smm => cases hi
  all_goals rfl

/-- Settles O60: an instruction that stores nothing is performed at its own place and keeps memory whole. -/
theorem memoryIsKept : Obligations.MemoryIsKept := by
  intro i s t hi h c
  rw [exec_eq_performOne s (performsRemote_of_storesNothing hi)] at h
  rw [State.byte, State.byte, performOne_keepsMem hi h]

end Sys2Proof.Machine
end

section
/-! The decoder (`30_encoding.md`): a word is made of its fields again, what was decoded encodes to the words it was decoded
from, and what the decoder refuses. -/

namespace Sys2Proof.Machine

-- Small bit vectors by their values.

theorem eq_ofNat_of_toNat {n k : Nat} {b : BitVec n} (h : b.toNat = k) : b = BitVec.ofNat n k :=
  (BitVec.toNat_eq_nat.1 h).2

theorem threeBits_cases (x : BitVec 3) :
    x = 0#3 ∨ x = 1#3 ∨ x = 2#3 ∨ x = 3#3 ∨ x = 4#3 ∨ x = 5#3 ∨ x = 6#3 ∨ x = 7#3 := by
  revert x
  decide

/-- The last row of a table by three bits. -/
theorem toNat_eq_seven {g : BitVec 3} (h0 : g.toNat ≠ 0) (h1 : g.toNat ≠ 1) (h2 : g.toNat ≠ 2) (h3 : g.toNat ≠ 3)
    (h4 : g.toNat ≠ 4) (h5 : g.toNat ≠ 5) (h6 : g.toNat ≠ 6) : g.toNat = 7 := by
  omega

/-- The last row of a table by two bits. -/
theorem toNat_eq_three {c : BitVec 2} (h0 : c.toNat ≠ 0) (h1 : c.toNat ≠ 1) (h2 : c.toNat ≠ 2) : c.toNat = 3 := by
  omega

-- A word of each kind is made of its fields again.

@[simp] theorem Modifier.toBits_ofBits (x : BitVec 3) : (Modifier.ofBits x).toBits = x := by
  revert x
  decide

theorem shortWord_fields (w : Word) : shortWord (fieldOp w) (fieldX w) (fieldD w) = w := by
  grind [shortWord, fieldOp, fieldX, fieldD]

theorem shiftWord_of_fieldOp {w : Word} (h : fieldOp w = 0o34#5) :
    shiftWord (fieldX w) (fieldBit8 w) (fieldCount w) = w := by
  rw [shiftWord, ← h]
  grind [fieldOp, fieldX, fieldBit8, fieldCount]

theorem statusWord_of_fieldOp {w : Word} (h : fieldOp w = 0o33#5) (hx : fieldX w = 7#3) :
    statusWord (fieldUndescribed w) (fieldBit1 w) = w := by
  rw [statusWord, ← h, ← hx]
  grind [fieldOp, fieldX, fieldUndescribed, fieldBit1]

theorem movWord_of_fieldOp {w : Word} (h : fieldOp w = 0o35#5) (h6 : fieldBit6 w = false) :
    movWord (fieldDest w) (fieldMovOp w) (fieldG w) = w := by
  rw [movWord, ← h]
  grind [fieldOp, fieldDest, fieldMovOp, fieldG, fieldBit6]

theorem xioWord_of_fieldOp {w : Word} (h : fieldOp w = 0o36#5) :
    xioWord (fieldX w) (fieldBit8 w) (fieldBit7 w) (fieldEd w) = w := by
  rw [xioWord, ← h]
  grind [fieldOp, fieldX, fieldBit8, fieldBit7, fieldEd]

theorem longWord_of_fieldOp {w : Word} (h : fieldOp w = 0o37#5) :
    longWord (fieldX w) (fieldLongOp w) (fieldG w) = w := by
  rw [longWord, ← h]
  grind [fieldOp, fieldX, fieldLongOp, fieldG]

/-- With a long operation code from 34 on, the two low bits of it begin N (`30_encoding.md` rule R120). -/
theorem pinWord_of_fieldOp {w : Word} (h : fieldOp w = 0o37#5) (hop : 0o34 ≤ (fieldLongOp w).toNat) :
    pinWord (fieldX w) (fieldN w) = w := by
  have high : ∀ op : BitVec 5, 0o34 ≤ op.toNat → op.extractLsb' 2 3 = 7#3 := by decide
  rw [pinWord, ← h, ← high _ hop]
  grind [fieldOp, fieldX, fieldLongOp, fieldN]

-- The length of a word's instruction.

theorem isTwoWord_short {w : Word} (h : (fieldOp w).toNat < 0o36) : isTwoWord w = false := by
  have hxio : (fieldOp w == 0o36#5) = false := beq_false_of_ne fun e => absurd h (by rw [e]; decide)
  have hlong : (fieldOp w == 0o37#5) = false := beq_false_of_ne fun e => absurd h (by rw [e]; decide)
  rw [isTwoWord, hxio, hlong]
  rfl

theorem isTwoWord_xio {w : Word} (h : fieldOp w = 0o36#5) :
    isTwoWord w = (fieldX w == 0#3 || fieldX w == 1#3 || fieldX w == 4#3 || fieldX w == 5#3) := by
  rw [isTwoWord, h]
  rfl

theorem isTwoWord_long {w : Word} (h : fieldOp w = 0o37#5) : isTwoWord w = true := by
  rw [isTwoWord, h]
  rfl

-- What the decoder admits.

theorem admitRead1_eq_ok {g? : BitVec 3 → Bool} {mk : Form → Instr} {o : Form} {i : Instr} :
    admitRead1 g? mk o = .ok i ↔ o.wfRead1 g? = true ∧ mk o = i := by
  unfold admitRead1
  split <;> simp_all

theorem admitLocation_eq_ok {g? : BitVec 3 → Bool} {mk : Form → Instr} {o : Form} {i : Instr} :
    admitLocation g? mk o = .ok i ↔ o.wfLocation g? = true ∧ mk o = i := by
  unfold admitLocation
  split
  · simp_all
  · split <;> simp_all

theorem admitAddress_eq_ok {g? : BitVec 3 → Bool} {mk : Form → Instr} {o : Form} {i : Instr} :
    admitAddress g? mk o = .ok i ↔ o.wfAddress g? = true ∧ mk o = i := by
  unfold admitAddress
  split
  · simp_all
  · split
    · simp_all
    · split <;> simp_all

theorem admitLong_eq_ok {i j : Instr} : admitLong j = .ok i ↔ j.wellFormed = true ∧ j = i := by
  unfold admitLong
  split <;> simp_all

-- The rows of the long format.

section
variable {w w2 : Word} {n g : Nat}

/-- A row that both formats share: the long form has the words of the row. -/
theorem encode_longRow {mk : Form → Instr} (h37 : fieldOp w = 0o37#5) (hop : (fieldLongOp w).toNat = n)
    (hmk : ∀ o, encode (mk o) = o.encode (BitVec.ofNat 5 n)) :
    encode (mk (.long (.ofBits (fieldX w)) (fieldG w) w2)) = [w, w2] := by
  rw [hmk, Form.encode, Modifier.toBits_ofBits, ← eq_ofNat_of_toNat hop, longWord_of_fieldOp h37]

/-- A row of the long format only, which prints its designator. -/
theorem encode_designatorRow {mk : Modifier → Word → Instr} (h37 : fieldOp w = 0o37#5) (hop : (fieldLongOp w).toNat = n)
    (hg : (fieldG w).toNat = g)
    (hmk : ∀ x w2, encode (mk x w2) = [longWord x.toBits (BitVec.ofNat 5 n) (BitVec.ofNat 3 g), w2]) :
    encode (mk (.ofBits (fieldX w)) w2) = [w, w2] := by
  rw [hmk, Modifier.toBits_ofBits, ← eq_ofNat_of_toNat hop, ← eq_ofNat_of_toNat hg, longWord_of_fieldOp h37]

end

/-- `alt` is the low bit of the operation code, 10 or 11. -/
theorem loadIndexOp_alt {op : BitVec 5} (h : op.toNat = 0o10 ∨ op.toNat = 0o11) : loadIndexOp (op.getLsbD 0) = op := by
  obtain h | h := h <;> rw [eq_ofNat_of_toNat h] <;> rfl

/-- `alt` is the low bit of the operation code, 22 or 23. -/
theorem storeIndexOp_alt {op : BitVec 5} (h : op.toNat = 0o22 ∨ op.toNat = 0o23) : storeIndexOp (op.getLsbD 0) = op := by
  obtain h | h := h <;> rw [eq_ofNat_of_toNat h] <;> rfl

/-- By the rows of the table: case `h_n` is operation code n - 1, or the last row. -/
theorem encode_of_decodeLong {w w2 : Word} {i : Instr} (h37 : fieldOp w = 0o37#5) (h : decodeLong w w2 false = .ok i) :
    encode i = [w, w2] := by
  simp only [decodeLong] at h
  split at h
  case h_1 hop | h_2 hop | h_3 hop | h_5 hop | h_6 hop | h_7 hop | h_8 hop | h_17 hop | h_18 hop =>
    obtain ⟨_, rfl⟩ := admitAddress_eq_ok.1 h
    exact encode_longRow h37 hop fun _ => rfl
  case h_11 hop | h_12 hop | h_14 hop | h_15 hop | h_21 hop | h_22 hop | h_23 hop | h_24 hop | h_25 hop | h_26 hop =>
    obtain ⟨_, rfl⟩ := admitRead1_eq_ok.1 h
    exact encode_longRow h37 hop fun _ => rfl
  case h_4 hop =>
    split at h
    · next hg =>
      split at h
      · next hx =>
        cases h
        have hw : encode (.smm w2) = [longWord (Modifier.ofBits (fieldX w)).toBits 0o03#5 1#3, w2] := by rw [hx]; rfl
        rw [hw, Modifier.toBits_ofBits, ← hg, ← eq_ofNat_of_toNat hop, longWord_of_fieldOp h37]
      · cases h
    · obtain ⟨_, rfl⟩ := admitAddress_eq_ok.1 h
      exact encode_longRow h37 hop fun _ => rfl
  case h_9 hop | h_10 hop =>
    split at h
    case h_4 =>
      obtain ⟨_, rfl⟩ := admitRead1_eq_ok.1 h
      exact encode_longRow h37 hop fun _ => rfl
    all_goals next hg =>
      cases h
      refine encode_designatorRow h37 hop hg fun _ _ => ?_
      rw [encode, loadIndexOp_alt (by simp [hop]), eq_ofNat_of_toNat hop]
  case h_13 hop =>
    split at h
    case h_1 =>
      obtain ⟨_, rfl⟩ := admitAddress_eq_ok.1 h
      exact encode_longRow h37 hop fun _ => rfl
    case h_6 => cases h
    all_goals next hg =>
      obtain ⟨_, rfl⟩ := admitLong_eq_ok.1 h
      exact encode_designatorRow h37 hop hg fun _ _ => rfl
  case h_16 hop =>
    split at h
    case h_2 =>
      obtain ⟨_, rfl⟩ := admitLocation_eq_ok.1 h
      exact encode_longRow h37 hop fun _ => rfl
    case h_8 h0 h1 h2 h3 h4 h5 h6 =>
      cases h
      exact encode_designatorRow h37 hop (toNat_eq_seven h0 h1 h2 h3 h4 h5 h6) fun _ _ => rfl
    all_goals next hg =>
      cases h
      exact encode_designatorRow h37 hop hg fun _ _ => rfl
  case h_19 hop | h_20 hop =>
    split at h
    case h_5 =>
      obtain ⟨_, rfl⟩ := admitLocation_eq_ok.1 h
      exact encode_longRow h37 hop fun _ => rfl
    all_goals next hg =>
      cases h
      refine encode_designatorRow h37 hop hg fun _ _ => ?_
      rw [encode, storeIndexOp_alt (by simp [hop]), eq_ofNat_of_toNat hop]
  case h_27 | h_28 => cases h
  case h_29 =>
    obtain ⟨_, rfl⟩ := admitLong_eq_ok.1 h
    have hop : 0o34 ≤ (fieldLongOp w).toNat := by
      simp only [imp_false] at *
      omega
    rw [encode, Modifier.toBits_ofBits, pinWord_of_fieldOp h37 hop]

-- The other operation codes.

theorem encode_of_decodeStatusGroup {w : Word} {i : Instr} (h33 : fieldOp w = 0o33#5) (h : decodeStatusGroup w = .ok i) :
    encode i = [w] := by
  have hshort := shortWord_fields w
  unfold decodeStatusGroup at h
  split at h
  case h_1 hx | h_2 hx | h_3 hx =>
    cases h
    rw [h33, eq_ofNat_of_toNat hx] at hshort
    exact congrArg ([·]) hshort
  case h_4 hx =>
    have hw := statusWord_of_fieldOp h33 (eq_ofNat_of_toNat hx)
    cases h
    split
    · next h1 => rw [encode, ← h1, hw]
    · next h1 => rw [encode, ← Bool.eq_false_iff.2 h1, hw]
  case h_5 => cases h

theorem encode_decodeShift {w : Word} (h34 : fieldOp w = 0o34#5) : encode (decodeShift w) = [w] := by
  have hw := shiftWord_of_fieldOp h34
  by_cases hn : fieldCount w = 0#7
  · rw [hn] at hw
    simp [decodeShift, hn, encode, hw]
  · simp only [decodeShift, hn, if_false]
    split
    case h_1 hx | h_3 hx | h_4 hx =>
      rw [eq_ofNat_of_toNat hx] at hw
      exact congrArg ([·]) hw
    case h_2 hx | h_5 hx | h_6 hx | h_7 hx =>
      rw [eq_ofNat_of_toNat hx] at hw
      cases hd : fieldBit8 w <;> rw [hd] at hw <;> exact congrArg ([·]) hw
    case h_8 h0 h1 h2 h3 h4 h5 h6 =>
      rw [eq_ofNat_of_toNat (toNat_eq_seven h0 h1 h2 h3 h4 h5 h6)] at hw
      cases hd : fieldBit8 w <;> rw [hd] at hw <;> exact congrArg ([·]) hw

theorem encode_of_decodeMov {w : Word} {i : Instr} (h35 : fieldOp w = 0o35#5) (h : decodeMov w = .ok i) :
    encode i = [w] := by
  unfold decodeMov at h
  split at h
  · cases h
  · next h6 =>
    have hw := movWord_of_fieldOp h35 (Bool.eq_false_iff.2 h6)
    split at h
    case h_1 hop | h_2 hop | h_3 hop =>
      cases h
      rw [eq_ofNat_of_toNat hop] at hw
      exact congrArg ([·]) hw
    case h_4 h0 h1 h2 =>
      cases h
      rw [eq_ofNat_of_toNat (toNat_eq_three h0 h1 h2)] at hw
      exact congrArg ([·]) hw

/-- The words after the first that an XIO with this X field has (`30_encoding.md` rule R104). -/
def xioTail (x : BitVec 3) (w2 : Word) : List Word :=
  if x == 0#3 || x == 1#3 || x == 4#3 || x == 5#3 then [w2] else []

theorem encode_xioFunctionOf (x : BitVec 3) (w2 : Word) : (xioFunctionOf x w2).encode = (x, xioTail x w2) := by
  unfold xioFunctionOf
  split
  case h_8 h0 h1 h2 h3 h4 h5 h6 => rw [eq_ofNat_of_toNat (toNat_eq_seven h0 h1 h2 h3 h4 h5 h6)]; rfl
  all_goals next hx => rw [eq_ofNat_of_toNat hx]; rfl

theorem encode_of_decodeInternalXio {x : BitVec 3} {c k : Bool} {w2 : Word} {i : Instr}
    (h : decodeInternalXio x c k w2 = .ok i) : encode i = xioWords (xioFunctionOf x w2).encode c k 0#6 := by
  unfold decodeInternalXio at h
  split at h
  case h_1 src hf => cases c <;> cases k <;> cases h <;> rw [hf] <;> rfl
  case h_2 dst hf => cases c <;> cases k <;> cases h; rw [hf]; rfl
  all_goals cases h

theorem encode_of_decodeXio {w w2 : Word} {i : Instr} (h36 : fieldOp w = 0o36#5) (h : decodeXio w w2 = .ok i) :
    encode i = w :: xioTail (fieldX w) w2 := by
  have hw := xioWord_of_fieldOp h36
  unfold decodeXio at h
  split at h
  · next hed => rw [encode_of_decodeInternalXio h, encode_xioFunctionOf, xioWords, ← hed, hw]
  · cases h; rw [encode, encode_xioFunctionOf, xioWords, hw]

/-- A row of the short format. -/
theorem encode_shortRow {mk : Form → Instr} {w : Word} {n : Nat} (hop : (fieldOp w).toNat = n)
    (hmk : ∀ o, encode (mk o) = o.encode (BitVec.ofNat 5 n)) :
    encode (mk (.short (.ofBits (fieldX w)) (fieldD w))) = [w] := by
  rw [hmk, Form.encode, Modifier.toBits_ofBits, ← eq_ofNat_of_toNat hop, shortWord_fields]

/-- By the rows of the table: case `h_n` is operation code n - 1. -/
theorem encode_of_decode {w w2 : Word} {i : Instr} (h : decode w w2 = .ok i) :
    encode i = if isTwoWord w then [w, w2] else [w] := by
  unfold decode at h
  split at h
  case h_1 hop | h_2 hop | h_3 hop | h_4 hop | h_5 hop | h_6 hop | h_7 hop | h_8 hop | h_13 hop | h_17 hop | h_18 hop =>
    obtain ⟨_, rfl⟩ := admitAddress_eq_ok.1 h
    rw [isTwoWord_short (by omega)]
    exact encode_shortRow hop fun _ => rfl
  case h_16 hop | h_19 hop | h_20 hop =>
    obtain ⟨_, rfl⟩ := admitLocation_eq_ok.1 h
    rw [isTwoWord_short (by omega)]
    exact encode_shortRow hop fun _ => rfl
  case h_27 => cases h
  case h_28 hop =>
    rw [isTwoWord_short (by omega)]
    exact encode_of_decodeStatusGroup (eq_ofNat_of_toNat hop) h
  case h_29 hop =>
    cases h
    rw [isTwoWord_short (by omega)]
    exact encode_decodeShift (eq_ofNat_of_toNat hop)
  case h_30 hop =>
    rw [isTwoWord_short (by omega)]
    exact encode_of_decodeMov (eq_ofNat_of_toNat hop) h
  case h_31 hop =>
    have h36 := eq_ofNat_of_toNat hop
    rw [encode_of_decodeXio h36 h, xioTail, isTwoWord_xio h36]
    split <;> rfl
  case h_32 =>
    have hop : (fieldOp w).toNat = 0o37 := by
      simp only [imp_false] at *
      omega
    have h37 := eq_ofNat_of_toNat hop
    rw [encode_of_decodeLong h37 h, isTwoWord_long h37]
    rfl
  all_goals next hop =>
    obtain ⟨_, rfl⟩ := admitRead1_eq_ok.1 h
    rw [isTwoWord_short (by omega)]
    exact encode_shortRow hop fun _ => rfl

theorem encode_length (i : Instr) : (encode i).length = i.length := by
  cases i
  case xio f c k ed => exact Laws.EncodeLength.xio f c k ed
  case internalTest src => exact Laws.EncodeLength.internalTest src
  case internalSet src => exact Laws.EncodeLength.internalSet src
  case internalInput dst => exact Laws.EncodeLength.internalInput dst
  case lda o | lde o | dla o | sta o | ste o | dst o | add o | sub o | mpy o | dad o | dvd o | lor o | and o | xor o | jmp o
      | jci o | jlz o | jez o | jgz o | rtj o | jtb o | xec o | kal o | kaq o | kah o | imt o =>
    exact Laws.EncodeLength.form _ o
  all_goals rfl

/-- Settles O1: the words of the first instruction, whatever follows them, decode to it. -/
theorem decodeOfEncode : Obligations.DecodeOfEncode := fun _ rest h => decodeWords_encode rest h

/-- Settles O2: every row of the decoder keeps all fields of the words. -/
theorem encodeOfDecode : Obligations.EncodeOfDecode := fun _ _ _ h => encode_of_decode h

/-- Settles O3: the length is that of the words the instruction was decoded from. -/
theorem decodedIsWellFormed : Obligations.DecodedIsWellFormed := by
  intro w w2 i h
  refine ⟨decode_wellFormed h, ?_⟩
  rw [← encode_length, encode_of_decode h]
  split <;> rfl

/-- Settles O5: each word is decoded by evaluation. -/
theorem exampleWordsDecode : Obligations.ExampleWordsDecode :=
  ⟨rfl, rfl, rfl, rfl, rfl, rfl, rfl, rfl, rfl, rfl, rfl, rfl, rfl, rfl, rfl, rfl, rfl⟩

-- The refusals.

theorem exists_error_iff_isOk {r : Except DecodeError Instr} : (∃ e, r = .error e) ↔ r.isOk = false := by
  cases r <;> simp [Except.isOk, Except.toBool]

@[simp] theorem isOk_ok (i : Instr) : (Except.ok i : Except DecodeError Instr).isOk = true := rfl
@[simp] theorem isOk_error (e : DecodeError) : (Except.error e : Except DecodeError Instr).isOk = false := rfl

@[simp] theorem admitRead1_isOk (g? : BitVec 3 → Bool) (mk : Form → Instr) (o : Form) :
    (admitRead1 g? mk o).isOk = o.wfRead1 g? := by
  unfold admitRead1
  split <;> simp_all

@[simp] theorem admitLocation_isOk (g? : BitVec 3 → Bool) (mk : Form → Instr) (o : Form) :
    (admitLocation g? mk o).isOk = o.wfLocation g? := by
  unfold admitLocation
  split
  · simp_all
  · split <;> simp_all

@[simp] theorem admitAddress_isOk (g? : BitVec 3 → Bool) (mk : Form → Instr) (o : Form) :
    (admitAddress g? mk o).isOk = o.wfAddress g? := by
  unfold admitAddress
  split
  · simp_all
  · split
    · simp_all
    · split <;> simp_all

@[simp] theorem admitLong_isOk (i : Instr) : (admitLong i).isOk = i.wellFormed := by
  unfold admitLong
  split <;> simp_all

@[simp] theorem Modifier.ofBits_beq_literal (x : BitVec 3) : (Modifier.ofBits x == .literal) = (x == 7#3) := by
  revert x
  decide

@[simp] theorem Modifier.ofBits_eq_indirect {x : BitVec 3} : Modifier.ofBits x = .indirect ↔ x = 4#3 := by
  revert x
  decide

/-- What a step fetches was decoded from the word at P. -/
theorem State.fetch_eq_ok {s : State} {i : Instr} (h : s.fetch = .ok i) : ∃ w2, decode (s.word s.p) w2 = .ok i := by
  obtain ⟨w, hw, h⟩ := bind_eq_ok.1 h
  obtain ⟨w2, _, h⟩ := bind_eq_ok.1 h
  obtain ⟨_, rfl⟩ := State.readWord_eq_ok.1 hw
  exact ⟨w2, decoded_eq_ok.1 h⟩

theorem decodeStatusGroup_isOk (w : Word) :
    (decodeStatusGroup w).isOk = !(fieldX w == 0#3 || fieldX w == 3#3 || fieldX w == 4#3 || fieldX w == 5#3) := by
  unfold decodeStatusGroup
  split
  case h_5 h1 h2 h6 h7 =>
    have : ∀ x : BitVec 3, x.toNat ≠ 1 → x.toNat ≠ 2 → x.toNat ≠ 6 → x.toNat ≠ 7 →
      (x == 0#3 || x == 3#3 || x == 4#3 || x == 5#3) = true := by decide
    rw [this _ h1 h2 h6 h7]; rfl
  all_goals next hx => rw [eq_ofNat_of_toNat hx]; rfl

theorem decodeMov_isOk (w : Word) : (decodeMov w).isOk = !fieldBit6 w := by
  unfold decodeMov
  split
  · simp_all
  · split <;> simp_all

theorem decodeInternalXio_isOk (x : BitVec 3) (c k : Bool) (w2 : Word) :
    (decodeInternalXio x c k w2).isOk =
      !(!c || x == 2#3 || x == 6#3 || ((x == 4#3 || x == 5#3 || x == 7#3) && !k)) := by
  obtain rfl | rfl | rfl | rfl | rfl | rfl | rfl | rfl := threeBits_cases x <;> cases c <;> cases k <;> rfl

theorem decodeXio_isOk (w w2 : Word) :
    (decodeXio w w2).isOk = !(fieldEd w == 0#6 && (!fieldBit8 w || fieldX w == 2#3 || fieldX w == 6#3 ||
      ((fieldX w == 4#3 || fieldX w == 5#3 || fieldX w == 7#3) && !fieldBit7 w))) := by
  unfold decodeXio
  split
  · next h => rw [decodeInternalXio_isOk, h]; rfl
  · next h => rw [beq_false_of_ne h]; rfl

/-- The long format refuses the words of R121 (d) to (i) and the X = 7 forms of R111 (case `h_n` is operation code n - 1, or
the last row): where the table goes on by the designator, it is seen value by value. -/
theorem decodeLong_isOk {w : Word} (w2 : Word) (h37 : fieldOp w = 0o37#5) :
    (decodeLong w w2 false).isOk = !(unlistedWord w || excludedSevenWord w) := by
  simp only [decodeLong, unlistedWord, excludedSevenWord, h37]
  split
  case h_4 hop =>
    by_cases hg : fieldG w = 1#3
    · by_cases hx : fieldX w = 4#3 <;> simp [eq_ofNat_of_toNat hop, hg, hx]
    · simp [eq_ofNat_of_toNat hop, beq_false_of_ne hg, hg, Form.wfAddress, bne, designatorXec]
  case h_9 hop | h_10 hop | h_13 hop | h_16 hop | h_19 hop | h_20 hop =>
    obtain hg | hg | hg | hg | hg | hg | hg | hg := threeBits_cases (fieldG w) <;>
      simp [eq_ofNat_of_toNat hop, hg, Form.wfRead1, Form.wfAddress, Form.wfLocation,
        designatorA, designatorE, Instr.wellFormed, bne]
  case h_29 =>
    have hop : (fieldLongOp w).toNat = 0o34 ∨ (fieldLongOp w).toNat = 0o35 ∨ (fieldLongOp w).toNat = 0o36 ∨
        (fieldLongOp w).toNat = 0o37 := by
      simp only [imp_false] at *
      omega
    obtain hop | hop | hop | hop := hop <;>
      simp [eq_ofNat_of_toNat hop, Instr.wellFormed, bne]
  case h_17 hop =>
    simp [eq_ofNat_of_toNat hop, Form.wfAddress, bne, designatorA, Bool.and_comm]
  all_goals next hop =>
    simp [eq_ofNat_of_toNat hop, Form.wfRead1, Form.wfAddress, bne]

/-- The decoder refuses the words of R121 (a) to (j) and the X = 7 forms of R111; case `h_n` is operation code n - 1. -/
theorem decode_isOk (w w2 : Word) : (decode w w2).isOk = !(unlistedWord w || excludedSevenWord w) := by
  unfold decode unlistedWord excludedSevenWord
  split
  case h_29 hop =>
    simp [eq_ofNat_of_toNat hop]
  case h_28 hop =>
    simp [eq_ofNat_of_toNat hop, decodeStatusGroup_isOk]
  case h_30 hop =>
    simp [eq_ofNat_of_toNat hop, decodeMov_isOk]
  case h_31 hop =>
    simp [eq_ofNat_of_toNat hop, decodeXio_isOk]
  case h_32 =>
    have hop : (fieldOp w).toNat = 0o37 := by
      simp only [imp_false] at *
      omega
    exact decodeLong_isOk w2 (eq_ofNat_of_toNat hop)
  all_goals next hop =>
    simp [eq_ofNat_of_toNat hop, Form.wfRead1, Form.wfLocation, Form.wfAddress, bne]

/-- Settles O4: the refusals row by row; and a step that goes on has decoded the word at P. -/
theorem unlistedWordsAreRefused : Obligations.UnlistedWordsAreRefused := by
  have refused (w w2 : Word) : (∃ e, decode w w2 = .error e) ↔ (unlistedWord w || excludedSevenWord w) = true := by
    rw [exists_error_iff_isOk, decode_isOk, Bool.not_eq_false']
  refine ⟨refused, fun s h t hstep => ?_⟩
  obtain ⟨_, i, hfetch, _⟩ := step_eq_next.1 hstep
  obtain ⟨w2, hdecode⟩ := State.fetch_eq_ok hfetch
  obtain ⟨e, he⟩ := (refused _ w2).2 h
  rw [he] at hdecode
  cases hdecode

-- The step.

/-- No part of an XIO of one word comes from a second one. -/
theorem xioFunctionOf_oneWord {x : BitVec 3} (h : (x == 0#3 || x == 1#3 || x == 4#3 || x == 5#3) = false) (w2 w2' : Word) :
    xioFunctionOf x w2 = xioFunctionOf x w2' := by
  unfold xioFunctionOf
  split
  case h_1 hx | h_2 hx | h_5 hx | h_6 hx =>
    rw [eq_ofNat_of_toNat hx] at h
    cases h
  all_goals rfl

/-- The second word is no part of an instruction of one word. -/
theorem decode_oneWord {w : Word} (h : isTwoWord w = false) (w2 w2' : Word) : decode w w2 = decode w w2' := by
  unfold decode
  split
  case h_31 hop =>
    rw [isTwoWord_xio (eq_ofNat_of_toNat hop)] at h
    simp only [decodeXio, decodeInternalXio, xioFunctionOf_oneWord h w2 w2']
  case h_32 =>
    have hop : (fieldOp w).toNat = 0o37 := by
      simp only [imp_false] at *
      omega
    rw [isTwoWord_long (eq_ofNat_of_toNat hop)] at h
    cases h
  all_goals rfl

theorem ticked_eq_mapNext (r : Answer) : ticked r = mapNext (fun t => { t with draws := t.draws + 1 }) r := by
  cases r <;> rfl

/-- Settles O54: the fetch decodes the words at P, and `ticked` moves the step counter on. -/
theorem stepRunsTheDecodedInstruction : Obligations.StepRunsTheDecodedInstruction := by
  intro s w w2 i hi hat hd
  have hd' : decode w (if isTwoWord w then w2 else 0#16) = .ok i := by
    split
    · exact hd
    · next h1 => rw [← hd, decode_oneWord (Bool.eq_false_iff.2 h1) 0#16 w2]
  have hfetch : s.fetch = .ok i := by rw [hat.fetch, decoded_eq_ok.2 hd']
  rw [step, hi, hfetch, withValue_ok, ticked_eq_mapNext]
  rfl

end Sys2Proof.Machine
end

section
/-! Addresses and operands (`30_encoding.md` rules R105 to R111): the modifier tables, indirect addressing, and where an
operand or a location stops the instruction. -/

namespace Sys2Proof.Machine

-- The modifier tables.

/-- Settles O6: rows 0 to 3 and 6 form the sum of the row, rows 4 and 5 are its indirect addressing by definition. -/
theorem longModifierTable : Obligations.LongModifierTable := fun _ _ =>
  ⟨isAddressOf_formAddress _, isAddressOf_formAddress _, isAddressOf_formAddress _, isAddressOf_formAddress _, rfl, rfl,
    isAddressOf_formAddress _⟩

/-- An address extended to 16 bits forms itself. -/
theorem formAddress_setWidth (a : Addr) : formAddress (a.setWidth 16) = .ok a :=
  formAddress_eq_ok.2 ⟨by simp [BitVec.msb_setWidth], by simp⟩

/-- With D = 0 too, where row 0 is P itself, it is the sum of the row. -/
theorem relativeAddress_eq (here : Addr) (d : BitVec 8) :
    relativeAddress here d = formAddress (addressTerm here + displacement d) := by
  unfold relativeAddress
  split
  · next hd => subst hd; simpa [displacement, addressTerm] using (formAddress_setWidth here).symm
  · rfl

/-- Settles O7: the one value of `Config.shortDispAllPlus` decides the sign of D in all four rows. -/
theorem shortModifierTable : Obligations.ShortModifierTable := by
  refine ⟨Config.shortDispAllPlus, fun s here d => ?_⟩
  simp only [State.shortAddress, relativeAddress_eq, signedRow_parameters, bind_ok]
  exact ⟨isAddressOf_formAddress _, isAddressOf_formAddress _, isAddressOf_formAddress _, isAddressOf_formAddress _, rfl,
    rfl, isAddressOf_formAddress _⟩

/-- Through an installed address, indirect addressing is the address in the word there. -/
theorem State.indirectVia_setWidth {s : State} {a : Addr} (h : s.implemented a = true) (c : Parameters) :
    s.indirectVia (a.setWidth 16) c = addressIn (s.word a) c := by
  rw [State.indirectVia, formAddress_setWidth, bind_ok, State.readWord_eq_ok.2 ⟨h, rfl⟩, bind_ok]

theorem addressIn_specParameters (iw : Word) :
    addressIn iw specParameters = if iw.msb then .error (.refusal .addressWordBit16) else .ok (iw.setWidth 15) := by
  rw [addressIn, addressRefused_specParameters]

/-- Settles O8: the address word is read once, and only the spec's own configuration looks at its bit 16. -/
theorem indirectTakesOneAddressWord : Obligations.IndirectTakesOneAddressWord := by
  intro s a h
  rw [State.indirectVia_setWidth h, State.indirectVia_setWidth h, addressIn_parameters, addressIn_specParameters]
  exact ⟨rfl, fun h16 => if_neg (Bool.eq_false_iff.1 h16), fun h16 => if_pos h16⟩

-- The operands and locations that stop.

/-- A meaning stops where the part it starts with stops. -/
theorem withValue_of_error {α : Type} {r : Except Stop α} {e : Stop} (h : r = .error e) (k : α → Answer) :
    withValue r k = e.answer := by
  rw [h, withValue_error]

theorem State.readWord_absent {s : State} {m : Addr} (h : s.implemented m = false) :
    s.readWord m = .error (.fault .absentMemory) :=
  if_neg (Bool.eq_false_iff.1 h)

theorem State.writeWord_absent {s : State} {m : Addr} (h : s.implemented m = false) (w : Word) :
    s.writeWord m w = .error (.fault .absentMemory) :=
  if_neg (Bool.eq_false_iff.1 h)

/-- Without X = 7 the operand of class READ1 is the word at the address. -/
theorem State.operandOf_eq_bind (s : State) (at_ : Site) {o : Form} (h : o.modifier ≠ .literal) :
    s.operandOf at_ o = (s.effectiveAddress at_ o).bind s.readWord := by
  cases o with
  | short x d =>
    cases x
    case literal => exact absurd rfl h
    all_goals rfl
  | long x g w2 =>
    cases x
    case literal => exact absurd rfl h
    all_goals rfl

theorem storeWord_absent {s : State} {at_ : Site} {o : Form} {m : Addr} (hm : s.locationOf at_ o = .ok m)
    (h : s.implemented m = false) (w : Word) : storeWord w o at_ s = .fault .absentMemory := by
  rw [storeWord, hm, withValue_ok, State.writeWord_absent h]
  rfl

theorem addToMemory_absent {s : State} {at_ : Site} {o : Form} {m : Addr} (hm : s.locationOf at_ o = .ok m)
    (h : s.implemented m = false) (k : BitVec 3) : addToMemory k o at_ s = .fault .absentMemory := by
  rw [addToMemory, hm, withValue_ok, State.readWord_absent h]
  rfl

/-- IMT and AMTn read the word they add to, so they stop where it is absent. -/
theorem exec_addsToMemory_absent {s : State} {i : Instr} {k : Nat} {o : Form} {m : Addr} (hi : addsToMemory i k o)
    (hm : s.locationOf (Site.own o.length s) o = .ok m) (h : s.implemented m = false) : exec i s = .fault .absentMemory := by
  obtain ⟨rfl, _⟩ | ⟨x, w2, rfl, hi⟩ := hi
  · exact addToMemory_absent hm h _
  · obtain ⟨rfl, _⟩ | ⟨rfl, _⟩ | ⟨rfl, _⟩ | ⟨rfl, _⟩ | ⟨rfl, _⟩ | ⟨rfl, _⟩ | ⟨rfl, _⟩ := hi <;>
      exact addToMemory_absent hm h _

/-- With an address to return to and a place to go on at, RTJ stops at its store. -/
theorem exec_rtj_absent {s : State} {o : Form} {m : Addr} (hm : s.effectiveAddress (Site.own o.length s) o = .ok m)
    (h : s.implemented m = false) (hlast : m ≠ 0x7FFF#15) (hnext : s.p.toNat + o.length < addressSpace) :
    exec (.rtj o) s = .fault .absentMemory := by
  have hexec : exec (.rtj o) s = performRtj o (Site.own o.length s) s := rfl
  rw [hexec, performRtj, hm, withValue_ok, returnWord_eq_ok.2 ⟨hnext, rfl⟩, withValue_ok,
    nextAddress_eq_ok.2 ⟨hlast, rfl⟩, withValue_ok, State.writeWord_absent h]
  rfl

/-- Settles O9: every READ1 instruction starts with its operand, and the stores stop at the read or write
of an absent word. -/
theorem unreadableOperandStops : Obligations.UnreadableOperandStops := by
  refine ⟨fun o s e h => ?_, fun alt x w2 s e h => ?_, fun o s hx => ?_, ?_, ?_⟩
  · refine ⟨?_, ?_, ?_, ?_, ?_, ?_, ?_, ?_, ?_, ?_, ?_, ?_⟩ <;> exact withValue_of_error h _
  · refine ⟨?_, ?_, ?_⟩ <;> exact withValue_of_error h _
  · rw [State.operandOf_eq_bind s _ hx]
    exact ⟨fun e he => by rw [he]; rfl, fun m hm h => by rw [hm, bind_ok, State.readWord_absent h]⟩
  · rintro o s m hm h i (rfl | rfl | ⟨k, hi⟩ | ⟨alt, x, w2, rfl, rfl | rfl | rfl | rfl⟩)
    case inr.inr.inl => exact exec_addsToMemory_absent hi hm h
    all_goals exact storeWord_absent hm h _
  · exact fun o s m => exec_rtj_absent

-- X = 7.

theorem State.effectiveAddress_literal (s : State) (at_ : Site) {o : Form} (h : o.modifier = .literal) :
    s.effectiveAddress at_ o = .error (.refusal .excludedLiteral) := by
  cases o <;> cases h <;> rfl

theorem State.doubleOperandOf_literal (s : State) (at_ : Site) {o : Form} (h : o.modifier = .literal) :
    s.doubleOperandOf at_ o = .error (.refusal .excludedLiteral) := by
  rw [State.doubleOperandOf, State.effectiveAddress_literal s at_ h]
  rfl

/-- Settles O10: the address tables have no row X = 7, and only the long format has a location for it. -/
theorem excludedLiteralFormsStop : Obligations.ExcludedLiteralFormsStop := by
  refine fun s d g w2 => ⟨fun o ho i hi => ?_, ?_⟩
  · have hx : o.modifier = .literal := by obtain rfl | rfl := ho <;> rfl
    have address := s.effectiveAddress_literal (Site.own o.length s) hx
    have double := s.doubleOperandOf_literal (Site.own o.length s) hx
    obtain rfl | rfl | rfl | rfl | rfl | rfl | rfl | rfl | rfl | rfl | rfl := hi
    case inl | inr.inl => exact withValue_of_error double _
    all_goals exact withValue_of_error address _
  · rintro i (rfl | rfl | rfl) <;> rfl

end Sys2Proof.Machine
end

section
/-! Load and store (`40_load_store.md`): the encodings as the rules print them, and what a load, a store of one word, a
double load and a double store do where they go on and where they stop. -/

namespace Sys2Proof.Machine

-- The encodings.

/-- A short word as the rules print it: the operation code in bits 16-12, `X << 8` and D. -/
theorem shortWord_eq_or (op : BitVec 5) (x : BitVec 3) (d : BitVec 8) :
    shortWord op x d = (op.setWidth 16 <<< 11) ||| (x.setWidth 16 <<< 8) ||| d.setWidth 16 := by
  grind [shortWord]

/-- The long format is operation code 37 with its own operation code and G in the place of D. -/
theorem longWord_eq_shortWord (x : BitVec 3) (op : BitVec 5) (g : BitVec 3) :
    longWord x op g = shortWord 0o37#5 x (op ++ g) :=
  BitVec.append_assoc

/-- A long first word as the rules print it: operation code 37, the long operation code in bits 8-4, `X << 8` and G. -/
theorem longWord_eq_or (x : BitVec 3) (op : BitVec 5) (g : BitVec 3) :
    longWord x op g = (0xF800#16 ||| (op.setWidth 16 <<< 3)) ||| (x.setWidth 16 <<< 8) ||| g.setWidth 16 := by
  have low : (op ++ g).setWidth 16 = (op.setWidth 16 <<< 3) ||| g.setWidth 16 := by grind
  have high : (0o37#5).setWidth 16 <<< 11 = 0xF800#16 := rfl
  rw [longWord_eq_shortWord, shortWord_eq_or, low, high]
  ac_rfl

/-- The short row of an S/L instruction prints its operation code alone. -/
theorem shortEncodes_of_op {mk : Form → Instr} {pattern : Word} (op : BitVec 5) (h : ∀ o, encode (mk o) = o.encode op)
    (hp : op.setWidth 16 <<< 11 = pattern) : shortEncodes mk pattern := fun x d => by
  rw [h, Form.encode, shortWord_eq_or, hp]

/-- The long row of an S/L instruction prints 37 and its operation code. -/
theorem longEncodes_of_op {mk : Form → Instr} {pattern : Word} (op : BitVec 5) (h : ∀ o, encode (mk o) = o.encode op)
    (hp : 0xF800#16 ||| (op.setWidth 16 <<< 3) = pattern) : longEncodes mk pattern := fun x g w2 => by
  rw [h, Form.encode, longWord_eq_or, hp]

/-- The rows of LDXn, STXn and STZ print 37, an operation code whose lowest bit, bit 4 of the word, is free, and G. -/
theorem indexEncodes_of_op {mk : Bool → Modifier → Word → Instr} {ops : Bool → BitVec 5} {pattern : Word}
    (op : BitVec 5) (g : BitVec 3) (hops : ∀ alt, ops alt = op ||| (BitVec.ofBool alt).setWidth 5)
    (h : ∀ alt x w2, encode (mk alt x w2) = [longWord x.toBits (ops alt) g, w2])
    (hp : 0xF800#16 ||| (op.setWidth 16 <<< 3) ||| g.setWidth 16 = pattern) : indexEncodes mk pattern := fun alt x w2 => by
  have bit4 : ((BitVec.ofBool alt).setWidth 5).setWidth 16 = (BitVec.ofBool alt).setWidth 16 := by cases alt <;> rfl
  rw [h, hops, longWord_eq_or, BitVec.setWidth_or, BitVec.shiftLeft_or_distrib, bit4, ← hp]
  congr 1
  ac_rfl

/-- Operation codes 10 and 11 are those of LDXn, 22 and 23 those of STXn and STZ. -/
theorem loadIndexOp_eq_or (alt : Bool) : loadIndexOp alt = 0o10#5 ||| (BitVec.ofBool alt).setWidth 5 := by
  cases alt <;> rfl

theorem storeIndexOp_eq_or (alt : Bool) : storeIndexOp alt = 0o22#5 ||| (BitVec.ofBool alt).setWidth 5 := by
  cases alt <;> rfl

/-- A long form of class READ2, WRITE2 or ADDR has a listed designator and an X other than 7. -/
theorem wfAddress_long_iff (g? : BitVec 3 → Bool) (x : Modifier) (g : BitVec 3) (w2 : Word) :
    (Form.long x g w2).wfAddress g? = true ↔ g? g = true ∧ x ≠ .literal := by
  simp [Form.wfAddress, and_comm]

-- Loads.

/-- A load whose operand can be read goes on at the place that follows. -/
theorem loadWith_completes {set : State → Word → State} {o : Form} {s : State} {v : Word} {len : Nat} {n : Addr}
    (hv : isOperand s o v) (hn : follows s len n) (hset : (set s v).memWords = s.memWords) :
    loadWith set o (Site.own len s) s = .next ((set s v).setP n) := by
  rw [loadWith, hv.operandOf, withValue_ok, hn.advance hset]

/-- Settles O13: both are the load of their register, and O9 says where the operand cannot be read. -/
theorem ldaAndLdeLoadTheOperand : Obligations.LdaAndLdeLoadTheOperand := by
  refine ⟨shortEncodes_of_op 0o10#5 (fun _ => rfl) rfl, longEncodes_of_op 0o10#5 (fun _ => rfl) rfl,
    shortEncodes_of_op 0o11#5 (fun _ => rfl) rfl, longEncodes_of_op 0o11#5 (fun _ => rfl) rfl,
    fun _ _ _ => ⟨designatorA_iff, designatorE_iff⟩, fun o s v n hv hn => ?_,
    fun o s e h => ?_⟩
  · exact ⟨loadWith_completes (set := State.setA) hv hn rfl, loadWith_completes (set := State.setE) hv hn rfl⟩
  · obtain ⟨hlda, hlde, _⟩ := unreadableOperandStops.1 o s e h
    exact ⟨hlda, hlde⟩

/-- Settles O14: the three are loads of the same long form, whatever the operation code. -/
theorem ldxLoadsAnIndexRegister : Obligations.LdxLoadsAnIndexRegister := by
  refine ⟨indexEncodes_of_op 0o10#5 1#3 loadIndexOp_eq_or (fun _ _ _ => rfl) rfl,
    indexEncodes_of_op 0o10#5 2#3 loadIndexOp_eq_or (fun _ _ _ => rfl) rfl,
    indexEncodes_of_op 0o10#5 3#3 loadIndexOp_eq_or (fun _ _ _ => rfl) rfl,
    fun alt x w2 s v n hv hn => ⟨?_, ?_, ?_⟩⟩
  · exact loadWith_completes (set := State.setX1) hv hn rfl
  · exact loadWith_completes (set := State.setX2) hv hn rfl
  · exact loadWith_completes (set := State.setX4) hv hn rfl

-- Stores of one word.

/-- A store and the advance after it change one word and P. -/
theorem storesOnly_putWord {s : State} (hs : s.wellFormed = true) (m : Addr) (w : Word) (n : Addr) :
    storesOnly s m w n ((s.putWord m w).setP n) :=
  ⟨State.wellFormed.word_putWord hs m w, rfl, fun _ h0 h1 => State.byte_putWord_other s m w h0 h1,
    ⟨rfl, rfl, rfl, rfl, rfl⟩, ⟨rfl, rfl, rfl, rfl, rfl⟩, rfl, rfl, rfl⟩

/-- A store at an installed location goes on at the place that follows. -/
theorem storeWord_completes {w : Word} {o : Form} {s : State} {m n : Addr} {len : Nat} (hs : s.wellFormed = true)
    (hloc : s.locationOf (Site.own len s) o = .ok m) (hm : s.implemented m = true) (hn : follows s len n) :
    ∃ t, storeWord w o (Site.own len s) s = .next t ∧ storesOnly s m w n t :=
  ⟨_, storeWord_eq_next.2 ⟨m, hloc, hm, n, hn.placeFor, rfl⟩, storesOnly_putWord hs m w n⟩

/-- Settles O16: both are the store of their register; the location of long X = 7 is P + 1 by definition. -/
theorem staAndSteStoreOneWord : Obligations.StaAndSteStoreOneWord := by
  refine ⟨shortEncodes_of_op 0o22#5 (fun _ => rfl) rfl, longEncodes_of_op 0o22#5 (fun _ => rfl) rfl,
    shortEncodes_of_op 0o23#5 (fun _ => rfl) rfl, longEncodes_of_op 0o23#5 (fun _ => rfl) rfl,
    fun _ _ _ => ⟨designatorA_iff, designatorE_iff⟩, fun o s m n hs hloc hm hn => ?_,
    fun s g w2 hp => nextAddress_eq_ok.2 ⟨hp, rfl⟩, fun s d => ?_⟩
  · exact ⟨storeWord_completes hs hloc hm hn, storeWord_completes hs hloc hm hn⟩
  · have excluded := (excludedLiteralFormsStop s d 0#3 0#16).2
    exact ⟨excluded _ (.inl rfl), excluded _ (.inr (.inl rfl))⟩

/-- Settles O18: the four are stores at the location of the same long form, whatever the operation code. -/
theorem stxAndStzStoreOneWord : Obligations.StxAndStzStoreOneWord := by
  refine ⟨indexEncodes_of_op 0o22#5 1#3 storeIndexOp_eq_or (fun _ _ _ => rfl) rfl,
    indexEncodes_of_op 0o22#5 2#3 storeIndexOp_eq_or (fun _ _ _ => rfl) rfl,
    indexEncodes_of_op 0o22#5 3#3 storeIndexOp_eq_or (fun _ _ _ => rfl) rfl,
    indexEncodes_of_op 0o22#5 0#3 storeIndexOp_eq_or (fun _ _ _ => rfl) rfl,
    fun alt x w2 s m n hs hloc hm hn => ⟨?_, ?_, ?_, ?_⟩⟩
  all_goals exact storeWord_completes hs hloc hm hn

-- Double words.

/-- Where m and m + 1 are no double word, the first part that is missing: the word at m, the address m + 1, or the word
there. -/
theorem not_hasDouble_cases {s : State} {m : Addr} (h : ¬ hasDouble s m) :
    s.implemented m = false ∨ (s.implemented m = true ∧ m = 0x7FFF#15) ∨
      (s.implemented m = true ∧ m ≠ 0x7FFF#15 ∧ s.implemented (m + 1#15) = false) := by
  by_cases hlast : m = 0x7FFF#15 <;> cases hm : s.implemented m <;> simp_all [hasDouble]

/-- Reading a double word that is not there stops with a fault. -/
theorem State.readDouble_fault {s : State} {m : Addr} (h : ¬ hasDouble s m) :
    ∃ f, s.readDouble m = .error (.fault f) := by
  obtain hm | ⟨hm, rfl⟩ | ⟨hm, hlast, hm1⟩ := not_hasDouble_cases h
  · exact ⟨.absentMemory, by rw [readDouble, readWord_absent hm]; rfl⟩
  · exact ⟨.outsideSpace, by rw [readDouble, readWord_eq_ok.2 ⟨hm, rfl⟩]; rfl⟩
  · refine ⟨.absentMemory, ?_⟩
    rw [readDouble, readWord_eq_ok.2 ⟨hm, rfl⟩, bind_ok, nextAddress_eq_ok.2 ⟨hlast, rfl⟩, bind_ok, readWord_absent hm1]
    rfl

/-- So does writing one, also where the first of the two words is there. -/
theorem State.writeDouble_fault {s : State} {m : Addr} (h : ¬ hasDouble s m) (hi lo : Word) :
    ∃ f, s.writeDouble m hi lo = .error (.fault f) := by
  obtain hm | ⟨hm, rfl⟩ | ⟨hm, hlast, hm1⟩ := not_hasDouble_cases h
  · exact ⟨.absentMemory, by rw [writeDouble, writeWord_absent hm]; rfl⟩
  · exact ⟨.outsideSpace, by rw [writeDouble, writeWord_eq_ok.2 ⟨hm, rfl⟩]; rfl⟩
  · refine ⟨.absentMemory, ?_⟩
    rw [writeDouble, writeWord_eq_ok.2 ⟨hm, rfl⟩, bind_ok, nextAddress_eq_ok.2 ⟨hlast, rfl⟩, bind_ok]
    exact writeWord_absent (s := s.putWord m hi) hm1 lo

/-- A is the half of AE at the lower address, E the other. -/
theorem State.setAE_append (s : State) (hi lo : Word) : s.setAE (hi ++ lo) = { s with a := hi, e := lo } := by
  rw [State.setAE, BitVec.extractLsb'_append_eq_left, BitVec.extractLsb'_append_eq_right]

/-- DLA with an address reads the double word there and goes on. -/
theorem exec_dla_of_address {s : State} {o : Form} {m : Addr} (h : s.effectiveAddress (Site.own o.length s) o = .ok m) :
    exec (.dla o) s = withValue (s.readDouble m) fun v => advance (Site.own o.length s) (s.setAE v) := by
  have hexec : exec (.dla o) s = performDla o (Site.own o.length s) s := rfl
  rw [hexec, performDla, State.doubleOperandOf, h, bind_ok]

/-- Settles O15: DLA reads its double operand first, and O10 says where X = 7 has none. -/
theorem dlaLoadsADoubleWord : Obligations.DlaLoadsADoubleWord := by
  refine ⟨shortEncodes_of_op 0o14#5 (fun _ => rfl) rfl, longEncodes_of_op 0o14#5 (fun _ => rfl) rfl,
    fun x g w2 => ?_, fun o s m hm => ?_,
    fun s d g w2 => ?_⟩
  · exact (wfAddress_long_iff (· == 0#3) x g w2).trans (and_congr_left' beq_iff_eq)
  · rw [exec_dla_of_address hm]
    refine ⟨fun n hd hn => ?_, fun hd => ?_⟩
    · rw [hd.readDouble, withValue_ok, State.setAE_append]
      exact hn.advance rfl
    · obtain ⟨f, hf⟩ := State.readDouble_fault hd
      exact ⟨f, withValue_of_error hf _⟩
  · have excluded := (excludedLiteralFormsStop s d g w2).1
    exact ⟨excluded _ (.inl rfl) _ (.inl rfl), excluded _ (.inr rfl) _ (.inl rfl)⟩

/-- DST with an address writes the double word there and goes on. -/
theorem exec_dst_of_address {s : State} {o : Form} {m : Addr} (h : s.effectiveAddress (Site.own o.length s) o = .ok m) :
    exec (.dst o) s = withValue (s.writeDouble m s.a s.e) fun s' => advance (Site.own o.length s) s' := by
  have hexec : exec (.dst o) s = performDst o (Site.own o.length s) s := rfl
  rw [hexec, performDst, h, withValue_ok]

/-- A double store leaves every byte outside its two words alone. -/
theorem State.byte_putDouble_other (s : State) (m : Addr) (hi lo : Word) {c : Nat} (h0 : c ≠ cellOf m)
    (h1 : c ≠ cellOf m + 1) (h2 : c ≠ cellOf (m + 1#15)) (h3 : c ≠ cellOf (m + 1#15) + 1) :
    ((s.putWord m hi).putWord (m + 1#15) lo).byte c = s.byte c := by
  rw [State.byte_putWord_other _ _ _ h2 h3, State.byte_putWord_other _ _ _ h0 h1]

/-- Settles O17: DST forms its address and then writes the double word, and O10 says where X = 7 has no address. -/
theorem dstStoresADoubleWord : Obligations.DstStoresADoubleWord := by
  refine ⟨shortEncodes_of_op 0o20#5 (fun _ => rfl) rfl, longEncodes_of_op 0o20#5 (fun _ => rfl) rfl,
    fun x g w2 => ?_, fun o s m hm => ?_,
    fun s d g w2 => ?_⟩
  · exact (wfAddress_long_iff designatorA x g w2).trans (and_congr_left' designatorA_iff)
  · rw [exec_dst_of_address hm]
    refine ⟨fun n hs hd hn => ?_, fun hd => ?_⟩
    · rw [hd.writeDouble, withValue_ok]
      exact ⟨_, hn.advance rfl, State.word_putDouble_hi (State.wf_of_wellFormed hs) m s.a s.e,
        State.word_putDouble_lo (State.wf_of_wellFormed hs) m s.a s.e, rfl,
        fun _ h0 h1 h2 h3 => State.byte_putDouble_other s m s.a s.e h0 h1 h2 h3,
        ⟨rfl, rfl, rfl, rfl, rfl⟩, ⟨rfl, rfl, rfl, rfl, rfl⟩, rfl, rfl, rfl⟩
    · obtain ⟨f, hf⟩ := State.writeDouble_fault hd s.a s.e
      exact ⟨f, withValue_of_error hf _⟩
  · have excluded := (excludedLiteralFormsStop s d g w2).1
    exact ⟨excluded _ (.inl rfl) _ (.inr (.inr (.inl rfl))), excluded _ (.inr rfl) _ (.inr (.inr (.inl rfl)))⟩

-- The instructions without an effect in the spec.

/-- Without a meaning supplied by NAMED_ONLY, the ten answer their own refusal. -/
theorem exec_of_namedOnly {i : Instr} {r : Refusal} (s : State) (h : namedOnly i = some r) : exec i s = .refused r := by
  cases i
  case cls | cld | prs | prd | trn | nrm | tal | sst | lst | pin => cases h; rfl
  all_goals cases h

/-- Settles O19: PIn is one of the ten, and its refusal says the PI address. -/
theorem namedOnlyInstructionsStop : Obligations.NamedOnlyInstructionsStop :=
  ⟨fun _ _ s h => exec_of_namedOnly s h, fun _ n _ s => ⟨piAddress n, piAddress_toNat n, exec_of_namedOnly s rfl⟩⟩

end Sys2Proof.Machine
end

section
/-! Arithmetic (`41_arithmetic.md`): sums, products and quotients are exact integers cut to the width of their destination
(rule R186), so each proof says where that cut loses nothing and which place the instruction goes on at. -/

namespace Sys2Proof.Machine

-- Exact results and their words.

/-- The model and the statements test the 16-bit range alike. -/
theorem fits16_eq_inRange16 (t : Int) : fits16 t = inRange16 t := (Bool.decide_and _ _).symm

/-- So they do the 32-bit range. -/
theorem fits32_eq_inRange32 (t : Int) : fits32 t = inRange32 t := (Bool.decide_and _ _).symm

/-- The cut of an exact sum is the sum of the words. -/
theorem ofInt_toInt_add {w : Nat} (x y : BitVec w) : BitVec.ofInt w (x.toInt + y.toInt) = x + y :=
  BitVec.eq_of_toInt_eq (by rw [BitVec.toInt_ofInt, BitVec.toInt_add])

/-- The cut of an exact difference is the difference of the words. -/
theorem ofInt_toInt_sub {w : Nat} (x y : BitVec w) : BitVec.ofInt w (x.toInt - y.toInt) = x - y :=
  BitVec.eq_of_toInt_eq (by rw [BitVec.toInt_ofInt, BitVec.toInt_sub])

theorem inRange16_toInt (v : Word) : inRange16 v.toInt = true := by
  have hlo : -2 ^ (16 - 1) ≤ v.toInt := BitVec.le_toInt v
  have hhi : v.toInt < 2 ^ (16 - 1) := BitVec.toInt_lt
  exact decide_eq_true (by omega)

/-- The cut of a result in the 16-bit range loses nothing. -/
theorem toInt_ofInt16 {t : Int} (h : inRange16 t = true) : (BitVec.ofInt 16 t).toInt = t := by
  obtain ⟨hlo, hhi⟩ := of_decide_eq_true h
  exact BitVec.toInt_ofInt_eq_self (by decide) (by omega) (by omega)

/-- A double word is its two halves. -/
theorem dword_of_halves (v : DWord) : v.extractLsb' 16 16 ++ v.extractLsb' 0 16 = v := by
  rw [BitVec.extractLsb'_append_extractLsb'_eq_extractLsb' (start₁ := 0) (len₁ := 16) rfl, BitVec.extractLsb'_eq_self]

/-- MPY_FN is exact: no product of two words leaves the 32-bit range, not even that of `0x8000` with itself. -/
theorem defaultMpyFn_toInt (a v : Word) : (defaultMpyFn a v).toInt = a.toInt * v.toInt := by
  have hlo : -2 ^ (16 * 2 - 2) ≤ a.toInt * v.toInt := BitVec.le_toInt_mul_toInt
  have hhi : a.toInt * v.toInt ≤ 2 ^ (16 * 2 - 2) := BitVec.toInt_mul_toInt_le
  exact BitVec.toInt_ofInt_eq_self (by decide) (by omega) (by omega)

theorem toInt_ne_zero {v : Word} (h : v ≠ 0#16) : v.toInt ≠ 0 := fun h0 => h (BitVec.eq_of_toInt_eq h0)

/-- A remainder of a division by a word is less than the word in size, and so a word itself. -/
theorem inRange16_remainder (n : Int) {v : Word} (h : v ≠ 0#16) : inRange16 (n - n.tdiv v.toInt * v.toInt) = true := by
  obtain ⟨hlo, hhi⟩ := of_decide_eq_true (inRange16_toInt v)
  have hsize : (n.tmod v.toInt).natAbs < v.toInt.natAbs := by
    rw [Int.natAbs_tmod]
    exact Nat.mod_lt _ (Int.natAbs_pos.2 (toInt_ne_zero h))
  rw [Int.mul_comm, ← Int.tmod_def]
  exact decide_eq_true (by omega)

/-- DVD_FN where the quotient fits: the cut quotient and the cut remainder. -/
theorem defaultDvdFn_of_inRange {ae : DWord} {v : Word} (hv : v ≠ 0#16) (hq : inRange16 (ae.toInt.tdiv v.toInt) = true) :
    defaultDvdFn ae v = some (BitVec.ofInt 16 (ae.toInt.tdiv v.toInt),
      BitVec.ofInt 16 (ae.toInt - ae.toInt.tdiv v.toInt * v.toInt)) := by
  simp only [defaultDvdFn, if_neg (toInt_ne_zero hv), fits16_eq_inRange16, hq, if_true]

/-- DVD_FN at an overflow divide. -/
theorem defaultDvdFn_of_overflow {ae : DWord} {v : Word} (h : v = 0#16 ∨ inRange16 (ae.toInt.tdiv v.toInt) = false) :
    defaultDvdFn ae v = none := by
  obtain rfl | hq := h
  · rfl
  · simp only [defaultDvdFn, fits16_eq_inRange16, hq, Bool.false_eq_true, if_false, ite_self]

-- Where the operand can be read.

/-- An instruction of class READ1 that advances goes on, its operand read, at the place that follows. -/
theorem isOperand.advance {o : Form} {s : State} {v : Word} {n : Addr} (hv : isOperand s o v)
    (hn : follows s o.length n) {result : Word → State} (hmem : (result v).memWords = s.memWords) :
    withValue (s.operandOf (Site.own o.length s) o) (fun v => advance (Site.own o.length s) (result v)) =
      .next ((result v).setP n) := by
  rw [hv.operandOf, withValue_ok, hn.advance hmem]

/-- Settles O20: the cut of the exact result is the word operation, and OV_RULE sets OV where the cut loses something. -/
theorem addAndSubSetOvOnOverflow : Obligations.AddAndSubSetOvOnOverflow := by
  intro o s v n hv hn
  constructor
  · have hadd : exec (.add o) s =
        .next (((s.setA (BitVec.ofInt 16 (s.a.toInt + v.toInt))).ovAfter (.add s.a v)).setP n) := hv.advance hn rfl
    rw [hadd, ofInt_toInt_add, State.ovAfter, ovRule_parameters, newOv_add, fits16_eq_inRange16]
    rfl
  · have hsub : exec (.sub o) s =
        .next (((s.setA (BitVec.ofInt 16 (s.a.toInt - v.toInt))).ovAfter (.sub s.a v)).setP n) := hv.advance hn rfl
    rw [hsub, ofInt_toInt_sub, State.ovAfter, ovRule_parameters, newOv_sub, fits16_eq_inRange16]
    rfl

/-- Settles O21: A and E are the halves of MPY_FN's product, which is exact, and OV_RULE keeps OV. -/
theorem mpyGivesTheExactProduct : Obligations.MpyGivesTheExactProduct := by
  intro o s v n hv hn
  refine ⟨(defaultMpyFn s.a v).extractLsb' 16 16, (defaultMpyFn s.a v).extractLsb' 0 16, ?_, ?_⟩
  · exact hv.advance hn (result := fun v => (s.setAE (defaultMpyFn s.a v)).ovAfter (.mpy s.a v)) rfl
  · rw [dword_of_halves, defaultMpyFn_toInt]

/-- Settles O22: the double word is read whole, and added as ADD adds a word. -/
theorem dadAddsDoubleWords : Obligations.DadAddsDoubleWords := by
  intro o s m n hm hd hn ae v
  have hread : s.doubleOperandOf (Site.own o.length s) o = .ok v := by
    rw [State.doubleOperandOf, hm, bind_ok, hd.readDouble]
  have hdad : exec (.dad o) s =
      .next (((s.setAE (BitVec.ofInt 32 (ae.toInt + v.toInt))).ovAfter (.dad ae v)).setP n) := by
    have hexec : exec (.dad o) s = performDad o (Site.own o.length s) s := rfl
    rw [hexec, performDad, hread, withValue_ok]
    exact hn.advance rfl
  rw [hdad, ofInt_toInt_add, State.ovAfter, ovRule_parameters, newOv_dad, fits32_eq_inRange32]
  rfl

-- Division.

/-- DVD skips where DVD_FN answers a quotient and a remainder, and keeps OV. -/
theorem exec_dvd_of_quotient {o : Form} {s : State} {v q r : Word} (hv : isOperand s o v)
    (h : defaultDvdFn s.ae v = some (q, r)) :
    exec (.dvd o) s = skip (Site.own o.length s) ((s.setE q).setA r) := by
  have hexec : exec (.dvd o) s = performDvd o (Site.own o.length s) s := rfl
  simp only [hexec, performDvd, hv.operandOf, withValue_ok, parameters_dvdFn, h, State.ovAfter_dvd]

/-- DVD advances where DVD_FN answers an overflow divide, and draws A, E and OV. -/
theorem exec_dvd_of_overflow {o : Form} {s : State} {v : Word} (hv : isOperand s o v) (h : defaultDvdFn s.ae v = none) :
    exec (.dvd o) s = advance (Site.own o.length s)
      (((s.setA (Config.drawA s.draws)).setE (Config.drawE s.draws)).ovAfter (.dvd s.ae v true)) := by
  have hexec : exec (.dvd o) s = performDvd o (Site.own o.length s) s := rfl
  simp only [hexec, performDvd, hv.operandOf, withValue_ok, parameters_dvdFn, h]

/-- Settles O23: DVD_FN divides and DVD skips, or DVD_FN answers an overflow divide and DVD advances. -/
theorem dvdDividesOrReportsOverflow : Obligations.DvdDividesOrReportsOverflow := by
  intro o s v hv dividend q
  refine ⟨fun hv0 hq t ht => ?_, fun hover n hn => ?_⟩
  · have hfn : defaultDvdFn s.ae v = some (BitVec.ofInt 16 q, BitVec.ofInt 16 (dividend - q * v.toInt)) :=
      defaultDvdFn_of_inRange hv0 hq
    refine ⟨_, _, ?_, toInt_ofInt16 hq, toInt_ofInt16 (inRange16_remainder dividend hv0)⟩
    exact (exec_dvd_of_quotient hv hfn).trans (skipsTo.skip ht rfl)
  · have hfn : defaultDvdFn s.ae v = none := defaultDvdFn_of_overflow hover
    exact ⟨_, _, Config.drawOv s.draws, (exec_dvd_of_overflow hv hfn).trans (hn.advance rfl)⟩

/-- Settles O24: AE holds the exact product (O21), whose truncated quotient by the same number is the old A, a word; so DVD
divides (O23), and nothing remains. -/
theorem dvdUndoesMpy : Obligations.DvdUndoesMpy := by
  intro s v g g' n q hv hn hq
  obtain ⟨hi, lo, hmpy, hprod⟩ := mpyGivesTheExactProduct (.long .literal g v) s v n rfl hn
  have hquot : (hi ++ lo).toInt.tdiv v.toInt = s.a.toInt := by rw [hprod, Int.mul_tdiv_cancel _ (toInt_ne_zero hv)]
  have hfits : inRange16 ((hi ++ lo).toInt.tdiv v.toInt) = true := hquot ▸ inRange16_toInt s.a
  obtain ⟨r', q', hdvd, hq', hr'⟩ :=
    (dvdDividesOrReportsOverflow (.long .literal g' v) { s with a := hi, e := lo, p := n } v rfl).1 hv hfits q hq
  have hzero : r'.toInt = 0 := by rw [hr', hquot, hprod, Int.sub_self]
  exact ⟨_, _, hmpy, hdvd, BitVec.eq_of_toInt_eq (hq'.trans hquot), BitVec.eq_of_toInt_eq hzero, rfl⟩

-- Augment index.

/-- In the running machine AXDn updates its register, P is free, and OV is set or kept. -/
theorem augmentWith_parameters (set : State → Word → State) (r : Word) (s : State) :
    augmentWith set r s = .next ((set s r).maySetOv.setP (Config.drawP s.draws)) := by
  rw [augmentWith, ifRun_parameters, jumpTo]

/-- Settles O25: the three differ in their register only, and OV is set or kept by the same free value. -/
theorem axdAugmentsAnIndexRegister : Obligations.AxdAugmentsAnIndexRegister := by
  intro d s
  refine ⟨Config.drawP s.draws, s.ov || Config.drawOv s.draws, fun hov => by rw [hov, Bool.true_or], ?_, ?_, ?_⟩
  · exact augmentWith_parameters State.setX1 (s.x1 + d.signExtend 16) s
  · exact augmentWith_parameters State.setX2 (s.x2 + d.signExtend 16) s
  · exact augmentWith_parameters State.setX4 (s.x4 + d.signExtend 16) s

end Sys2Proof.Machine
end

section
/-! Logical (`42_logical.md`): E combined with the operand goes into A, bit by bit. -/

namespace Sys2Proof.Machine

/-- Exclusive or is the sum of the two products with their bars, as the card prints XOR (`90_conflicts.md` C2). -/
theorem xor_eq_or_and_not {w : Nat} (x y : BitVec w) : x ^^^ y = (~~~x &&& y) ||| (x &&& ~~~y) := by
  refine BitVec.eq_of_getLsbD_eq fun i hi => ?_
  have bit : ∀ b c : Bool, (b ^^ c) = ((!b && c) || (b && !c)) := by decide
  simp [hi, bit]

/-- Settles O26: the three advance with A written from E and the operand, and the second form of XOR is the same word. -/
theorem logicalsCombineEAndOperand : Obligations.LogicalsCombineEAndOperand := by
  refine ⟨shortEncodes_of_op 0o12#5 (fun _ => rfl) rfl, longEncodes_of_op 0o12#5 (fun _ => rfl) rfl,
    shortEncodes_of_op 0o13#5 (fun _ => rfl) rfl, longEncodes_of_op 0o13#5 (fun _ => rfl) rfl,
    shortEncodes_of_op 0o31#5 (fun _ => rfl) rfl, longEncodes_of_op 0o31#5 (fun _ => rfl) rfl, fun o s v n hv hn => ?_⟩
  have hlor : exec (.lor o) s = .next ((s.setA (s.e ||| v)).setP n) := hv.advance hn rfl
  have hand : exec (.and o) s = .next ((s.setA (s.e &&& v)).setP n) := hv.advance hn rfl
  have hxor : exec (.xor o) s = .next ((s.setA (s.e ^^^ v)).setP n) := hv.advance hn rfl
  refine ⟨hlor, hand, hxor, ?_⟩
  rw [← xor_eq_or_and_not]
  exact hxor

end Sys2Proof.Machine
end

section
/-! Jump, branch and skip (`43_jump_branch_skip.md`): the jumps and what they form and store, the skips and their
distance, and XEC, whose admitted remote instructions do not look at P. -/

namespace Sys2Proof.Machine

/-- A meaning whose first part has a value goes on with it. -/
theorem withValue_of_ok {α : Type} {r : Except Stop α} {v : α} (h : r = .ok v) (k : α → Answer) : withValue r k = k v := by
  rw [h, withValue_ok]

-- Jumps.

/-- Where any G is admitted, a form of class ADDR is well-formed in all but X = 7. -/
theorem wfAddress_any_iff (o : Form) : o.wfAddress (designatorAny false) = true ↔ o.modifier ≠ .literal := by
  cases o <;> simp [Form.wfAddress, Form.modifier]

theorem performJmp_of_address {s : State} {at_ : Site} {o : Form} {m : Addr} (h : s.effectiveAddress at_ o = .ok m) :
    performJmp o at_ s = .next (s.setP m) := withValue_of_ok h _

/-- Nothing is fetched where P is not installed. -/
theorem State.fetch_absent {s : State} (h : s.implemented s.p = false) : s.fetch = .error (.fault .absentMemory) := by
  rw [State.fetch, State.readWord_absent h]
  rfl

/-- Settles O27: the target is looked at by the next fetch only. -/
theorem jmpSetsP : Obligations.JmpSetsP := by
  refine ⟨shortEncodes_of_op 0o00#5 (fun _ => rfl) rfl, longEncodes_of_op 0o00#5 (fun _ => rfl) rfl,
    fun o s m h => performJmp_of_address h, wfAddress_any_iff, ⟨rfl, fun s => ?_⟩, fun s t hp hstep => ?_⟩
  · exact performJmp_of_address (o := .short .base 0#8) (at_ := Site.own 1 s) (m := s.p) rfl
  · obtain ⟨_, i, hfetch, _⟩ := step_eq_next.1 hstep
    rw [State.fetch_absent hp] at hfetch
    cases hfetch

/-- Settles O28: P and INTR are all that JCI writes. -/
theorem jciClearsIntrAndJumps : Obligations.JciClearsIntrAndJumps := fun _ _ _ h => withValue_of_ok h _

/-- A conditional jump with an address jumps there where its condition holds. -/
theorem jumpIf_of_true {b : Bool} {o : Form} {at_ : Site} {s : State} {m : Addr} (h : s.effectiveAddress at_ o = .ok m)
    (hb : b = true) : jumpIf b o at_ s = .next (s.setP m) := by
  rw [jumpIf, h, withValue_ok, if_pos hb, jumpTo]

/-- Where its condition does not hold it goes on at the place that follows. -/
theorem jumpIf_of_false {b : Bool} {o : Form} {s : State} {m n : Addr} {len : Nat}
    (h : s.effectiveAddress (Site.own len s) o = .ok m) (hn : follows s len n) (hb : b = false) :
    jumpIf b o (Site.own len s) s = .next (s.setP n) := by
  rw [jumpIf, h, withValue_ok, if_neg (Bool.eq_false_iff.1 hb), hn.advance rfl]

/-- Bit 16 of a word, the sign. -/
theorem msb_eq_bit16 (v : Word) : v.msb = v.getLsbD 15 := BitVec.msb_eq_getLsbD_last v

/-- Settles O29: the three are conditional jumps, and the address comes before the condition. -/
theorem conditionalJumpsTestA : Obligations.ConditionalJumpsTestA := by
  refine ⟨shortEncodes_of_op 0o07#5 (fun _ => rfl) rfl, longEncodes_of_op 0o07#5 (fun _ => rfl) rfl,
    shortEncodes_of_op 0o06#5 (fun _ => rfl) rfl, longEncodes_of_op 0o06#5 (fun _ => rfl) rfl,
    shortEncodes_of_op 0o05#5 (fun _ => rfl) rfl, longEncodes_of_op 0o05#5 (fun _ => rfl) rfl,
    fun o s m hm => ?_, fun o s e he => ?_⟩
  · refine ⟨fun h => ?_, fun h => ?_, fun ⟨hsign, hne⟩ => ?_, fun n hn => ⟨fun h => ?_, fun h => ?_, fun h => ?_⟩⟩
    · exact jumpIf_of_true hm (by rw [msb_eq_bit16, h])
    · exact jumpIf_of_true hm (by simp [h])
    · exact jumpIf_of_true hm (by rw [msb_eq_bit16, hsign]; simpa using hne)
    · exact jumpIf_of_false hm hn (by rw [msb_eq_bit16, h])
    · exact jumpIf_of_false hm hn (by simp [h])
    · refine jumpIf_of_false hm hn ?_
      obtain hsign | hzero := h
      · rw [msb_eq_bit16, hsign, Bool.not_true, Bool.false_and]
      · simp [hzero]
  · refine ⟨?_, ?_, ?_⟩ <;> exact withValue_of_error he _

/-- The word RTJ stores is the address after it, installed or not. -/
theorem returnWord_own {s : State} {len : Nat} {n : Addr} (hn : n.toNat = s.p.toNat + len) :
    returnWord (Site.own len s) = .ok (n.setWidth 16) :=
  returnWord_eq_ok.2 ⟨by rw [Site.own, ← hn]; exact n.isLt, by rw [Site.own, ← hn, BitVec.ofNat_toNat]⟩

/-- RTJ to an installed word other than the last one stores there and goes on behind it. -/
theorem exec_rtj_of_address {s : State} {o : Form} {m n : Addr} (hm : s.effectiveAddress (Site.own o.length s) o = .ok m)
    (hn : n.toNat = s.p.toNat + o.length) (hi : s.implemented m = true) (hlast : m ≠ 0x7FFF#15) :
    exec (.rtj o) s = .next ((s.putWord m (n.setWidth 16)).setP (m + 1#15)) := by
  have hexec : exec (.rtj o) s = performRtj o (Site.own o.length s) s := rfl
  rw [hexec, performRtj, hm, withValue_ok, returnWord_own hn, withValue_ok, nextAddress_eq_ok.2 ⟨hlast, rfl⟩, withValue_ok,
    State.writeWord_eq_ok.2 ⟨hi, rfl⟩, withValue_ok, jumpTo]

/-- RTJ to the last address has no word to go on at. -/
theorem exec_rtj_last {s : State} {o : Form} {n : Addr}
    (hm : s.effectiveAddress (Site.own o.length s) o = .ok 0x7FFF#15) (hn : n.toNat = s.p.toNat + o.length) :
    exec (.rtj o) s = .fault .outsideSpace := by
  have hexec : exec (.rtj o) s = performRtj o (Site.own o.length s) s := rfl
  rw [hexec, performRtj, hm, withValue_ok, returnWord_own hn]
  rfl

/-- Settles O30: the one store is that of the return word. -/
theorem rtjStoresTheReturnAddress : Obligations.RtjStoresTheReturnAddress := by
  refine fun o s m n hm hn => ⟨fun hs hi hlast => ?_, ?_⟩
  · exact ⟨_, exec_rtj_of_address hm hn hi hlast, storesOnly_putWord hs m _ _⟩
  · rintro rfl
    exact exec_rtj_last hm hn

/-- The address of long X = 4 with Y = m is the one in the word at m, wherever the instruction stands. -/
theorem State.effectiveAddress_indirect {s : State} {m : Addr} (h : s.implemented m = true) (at_ : Site) (g : BitVec 3) :
    s.effectiveAddress at_ (.long .indirect g (m.setWidth 16)) = .ok ((s.word m).setWidth 15) := by
  have hbase : baseTerm (m.setWidth 16) = m.setWidth 16 := by simp [baseTerm, addressTerm]
  rw [State.effectiveAddress, State.longAddress, hbase, State.indirectVia_setWidth h, addressIn_parameters]

/-- Settles O31: bits 15 to 1 of the return word are the address that was extended to it. -/
theorem indirectJumpReturnsFromRtj : Obligations.IndirectJumpReturnsFromRtj := by
  intro o s m n g hs hm hi hlast hn
  refine ⟨_, exec_rtj_of_address hm hn hi hlast, performJmp_of_address ?_⟩
  have hi' : ((s.putWord m (n.setWidth 16)).setP (m + 1#15)).implemented m = true := hi
  have hstored : ((s.putWord m (n.setWidth 16)).setP (m + 1#15)).word m = n.setWidth 16 :=
    State.wellFormed.word_putWord hs m _
  rw [State.effectiveAddress_indirect hi', hstored, BitVec.setWidth_setWidth_of_le n (by decide), BitVec.setWidth_eq]

/-- Settles O32: A, E and OV are what `bitsTested` leaves. -/
theorem jtbJumpsThroughATable : Obligations.JtbJumpsThroughATable := by
  intro o s m hm hk entry
  have hexec : exec (.jtb o) s = jumpThroughTable o (Site.own o.length s) s := rfl
  refine ⟨Config.drawA s.draws, Config.drawE s.draws, s.ov || Config.drawOv s.draws, ?_, fun hov => by rw [hov, Bool.true_or]⟩
  rw [hexec, jumpThroughTable, hm, withValue_ok, State.readWord_eq_ok.2 ⟨hk, rfl⟩, withValue_ok]
  rfl

-- Skips.

theorem skipLength_oneWord {w : Word} (h : isTwoWord w = false) (c : Parameters) : skipLength w c = 1 :=
  if_neg (Bool.eq_false_iff.1 h)

/-- The running machine has one value of SKIP_MODE for every two-word instruction. -/
theorem skipLength_twoWord {w : Word} (h : isTwoWord w = true) :
    skipLength w = if Config.skipOneInstruction then 2 else 1 := by
  rw [skipLength, if_pos h, parameters]
  cases Config.skipOneInstruction <;> rfl

/-- Settles O33: which of the two it is, is the value of `Config.skipOneInstruction`. -/
theorem skipPassesOneInstructionOrOneWord : Obligations.SkipPassesOneInstructionOrOneWord := by
  refine ⟨fun w h => skipLength_oneWord h parameters, ?_⟩
  cases hskip : Config.skipOneInstruction with
  | false => exact .inl fun w h => by simp [skipLength_twoWord h, hskip]
  | true => exact .inr fun w h => by simp [skipLength_twoWord h, hskip]

/-- A skipping instruction skips where its condition holds. -/
theorem skipsTo.skipIf {s t : State} {len : Nat} {q : Addr} {b : Bool} (h : skipsTo t len q) (hp : t.p = s.p)
    (hb : b = true) : skipIf b (Site.own len s) t = .next (t.setP q) := by
  rw [Machine.skipIf, if_pos hb, h.skip hp]

/-- Where its condition does not hold it goes on at the place that follows. -/
theorem follows.skipIf {s t : State} {len : Nat} {n : Addr} {b : Bool} (h : follows s len n)
    (ht : t.memWords = s.memWords) (hb : b = false) : skipIf b (Site.own len s) t = .next (t.setP n) := by
  rw [Machine.skipIf, if_neg (Bool.eq_false_iff.1 hb), h.advance ht]

/-- A compare whose operand can be read skips or advances by its condition. -/
theorem compareWith_of_operand {cond : Word → Word → Bool} {o : Form} {s : State} {v : Word} {len : Nat}
    (hv : isOperand s o v) : compareWith cond o (Site.own len s) s = skipIf (cond s.a v) (Site.own len s) s :=
  withValue_of_ok (hv.operandOf len) _

/-- Settles O34: the three differ in the relation they test only. -/
theorem comparesSkip : Obligations.ComparesSkip := by
  intro o s v hv
  have hkal : exec (.kal o) s = skipIf (decide (s.a.toInt < v.toInt)) (Site.own o.length s) s :=
    compareWith_of_operand (cond := fun a v => decide (a.toInt < v.toInt)) hv
  have hkaq : exec (.kaq o) s = skipIf (s.a == v) (Site.own o.length s) s := compareWith_of_operand hv
  have hkah : exec (.kah o) s = skipIf (decide (s.a.toInt > v.toInt)) (Site.own o.length s) s :=
    compareWith_of_operand (cond := fun a v => decide (a.toInt > v.toInt)) hv
  rw [hkal, hkaq, hkah]
  refine ⟨fun t ht => ⟨fun h => ?_, fun h => ?_, fun h => ?_⟩, fun n hn => ⟨fun h => ?_, fun h => ?_, fun h => ?_⟩⟩
  · exact ht.skipIf rfl (decide_eq_true h)
  · exact ht.skipIf rfl (beq_iff_eq.2 h)
  · exact ht.skipIf rfl (decide_eq_true h)
  · exact hn.skipIf rfl (decide_eq_false (Int.not_lt.2 h))
  · exact hn.skipIf rfl (beq_eq_false_iff_ne.2 h)
  · exact hn.skipIf rfl (decide_eq_false (Int.not_lt.2 h))

/-- IMT and the seven AMTn are one operation, with G as the addend. -/
theorem exec_of_addsToMemory {i : Instr} {k : Nat} {o : Form} (h : addsToMemory i k o) (s : State) :
    ∃ g : BitVec 3, g.toNat = k ∧ exec i s = addToMemory g o (Site.own o.length s) s := by
  obtain ⟨rfl, rfl⟩ | ⟨x, w2, rfl, h⟩ := h
  · exact ⟨1#3, rfl, rfl⟩
  · obtain ⟨rfl, rfl⟩ | ⟨rfl, rfl⟩ | ⟨rfl, rfl⟩ | ⟨rfl, rfl⟩ | ⟨rfl, rfl⟩ | ⟨rfl, rfl⟩ | ⟨rfl, rfl⟩ := h
    · exact ⟨0#3, rfl, rfl⟩
    · exact ⟨2#3, rfl, rfl⟩
    · exact ⟨3#3, rfl, rfl⟩
    · exact ⟨4#3, rfl, rfl⟩
    · exact ⟨5#3, rfl, rfl⟩
    · exact ⟨6#3, rfl, rfl⟩
    · exact ⟨7#3, rfl, rfl⟩

/-- At an installed location IMT and AMTn store the sum, and then skip or advance by it and the old word. -/
theorem addToMemory_of_location {s : State} {at_ : Site} {o : Form} {m : Addr} (g : BitVec 3)
    (hloc : s.locationOf at_ o = .ok m) (hm : s.implemented m = true) :
    addToMemory g o at_ s =
      skipIf (s.word m + g.setWidth 16 == 0#16 || (s.word m + g.setWidth 16).msb != (s.word m).msb) at_
        ((s.putWord m (s.word m + g.setWidth 16)).ovAfter (.addToMemory g (s.word m))) := by
  simp only [addToMemory, hloc, State.readWord_eq_ok.2 ⟨hm, rfl⟩, State.writeWord_eq_ok.2 ⟨hm, rfl⟩, withValue_ok]

/-- What the sum and the old word decide: a skip, which looks at memory after the store, or an advance. -/
theorem skipIf_zeroOrSignChange {s : State} {len : Nat} {m q : Addr} {old r : Word} {k : OvCase}
    (h : (r = 0#16 ∨ r.getLsbD 15 ≠ old.getLsbD 15) ∧ skipsTo (s.putWord m r) len q ∨
      (r ≠ 0#16 ∧ r.getLsbD 15 = old.getLsbD 15) ∧ follows s len q) :
    skipIf (r == 0#16 || r.msb != old.msb) (Site.own len s) ((s.putWord m r).ovAfter k) =
      .next (((s.putWord m r).ovAfter k).setP q) := by
  rw [msb_eq_bit16, msb_eq_bit16]
  obtain ⟨hr, hq⟩ | ⟨⟨hr, hsign⟩, hq⟩ := h
  · exact skipsTo.skipIf (t := (s.putWord m r).ovAfter k) hq rfl (by simpa using hr)
  · exact hq.skipIf rfl (by rw [hsign, bne_self_eq_false, Bool.or_false, beq_eq_false_iff_ne]; exact hr)

/-- Settles O35: one store, OV by OV_RULE, and the place the sum and the old word decide. -/
theorem addToMemorySkipsOnZeroOrSignChange : Obligations.AddToMemorySkipsOnZeroOrSignChange := by
  intro i k o s m hi hs hloc hm old r q hq
  obtain ⟨g, rfl, hexec⟩ := exec_of_addsToMemory hi s
  have hr : r = old + g.setWidth 16 := by rw [← BitVec.ofNat_toNat]
  refine ⟨((s.putWord m r).ovAfter (.addToMemory g old)).setP q, ?_, State.wellFormed.word_putWord hs m r, rfl, fun hfit => ?_,
    fun _ h0 h1 => State.byte_putWord_other s m r h0 h1, ⟨rfl, rfl, rfl, rfl, rfl⟩, ⟨rfl, rfl, rfl, rfl, rfl⟩, rfl, rfl, rfl⟩
  · rw [hexec, addToMemory_of_location g hloc hm, ← hr]
    exact skipIf_zeroOrSignChange hq
  · have hov := newOv_addToMemory (s.putWord m r) g old
    rw [fits16_eq_inRange16, if_pos hfit] at hov
    exact hov

-- Execute.

/-- The internal functions are outside the admitted set. -/
theorem admitted_of_decodeInternalXio {x : BitVec 3} {c k : Bool} {w2 : Word} {i : Instr}
    (h : decodeInternalXio x c k w2 = .ok i) : admitted i = false := by
  unfold decodeInternalXio at h
  split at h
  case h_1 =>
    split at h
    · cases h
    · cases k <;> cases h <;> rfl
  case h_2 =>
    split at h
    · cases h; rfl
    · cases h
  all_goals cases h

/-- So is every XIO. -/
theorem admitted_of_decodeXio {w w2 : Word} {i : Instr} (h : decodeXio w w2 = .ok i) : admitted i = false := by
  unfold decodeXio at h
  split at h
  · exact admitted_of_decodeInternalXio h
  · cases h; rfl

theorem decode_xio {w : Word} (h : fieldOp w = 0o36#5) (w2 : Word) : decode w w2 = decodeXio w w2 := by
  simp [decode, h]

/-- Whether a first word is refused does not depend on the second. -/
theorem decode_ok_any {w w2 : Word} {i : Instr} (h : decode w w2 = .ok i) (w2' : Word) : ∃ j, decode w w2' = .ok j := by
  have hok : (decode w w2').isOk = true := by
    rw [decode_isOk, ← decode_isOk w w2, h]
    rfl
  cases hd : decode w w2' with
  | ok j => exact ⟨j, rfl⟩
  | error e =>
    rw [hd] at hok
    cases hok

/-- A first word of an XIO, of one word, or of the long format. -/
theorem twoWord_cases (w : Word) : fieldOp w = 0o36#5 ∨ isTwoWord w = false ∨ fieldOp w = 0o37#5 := by
  by_cases h36 : fieldOp w = 0o36#5 <;> by_cases h37 : fieldOp w = 0o37#5 <;> simp [isTwoWord, h36, h37]

/-- Only a long instruction has its second word read. -/
theorem State.remoteSecondWord_of_ne {w : Word} (h : fieldOp w ≠ 0o37#5) (s : State) (m : Addr) :
    s.remoteSecondWord m w = .ok 0#16 := if_neg (by simpa using h)

/-- What is fetched remotely is what the words there decode to, or both are outside the admitted set: the second word of a
two-word XIO is not read. -/
theorem wordsAt.fetchRemote {s : State} {m : Addr} {w w2 : Word} {i : Instr} (h : wordsAt s m w w2)
    (hd : decode w w2 = .ok i) :
    ∃ j, s.fetchRemote m = .ok j ∧ (j = i ∨ admitted j = false ∧ admitted i = false) := by
  obtain ⟨hm, hw, hsecond⟩ := h
  have hfetch {v : Word} {j : Instr} (hv : s.remoteSecondWord m w = .ok v) (hj : decode w v = .ok j) :
      s.fetchRemote m = .ok j := by
    rw [State.fetchRemote, State.readWord_eq_ok.2 ⟨hm, hw⟩, bind_ok, hv, bind_ok, decoded_eq_ok.2 hj]
  obtain h36 | h1 | h37 := twoWord_cases w
  · obtain ⟨j, hj⟩ := decode_ok_any hd 0#16
    have hxio := decode_xio h36
    exact ⟨j, hfetch (State.remoteSecondWord_of_ne (by simp [h36]) s m) hj,
      .inr ⟨admitted_of_decodeXio (hxio _ ▸ hj), admitted_of_decodeXio (hxio _ ▸ hd)⟩⟩
  · have hne : fieldOp w ≠ 0o37#5 := fun h37 => by rw [isTwoWord_long h37] at h1; cases h1
    exact ⟨i, hfetch (State.remoteSecondWord_of_ne hne s m) (decode_oneWord h1 w2 0#16 ▸ hd), .inl rfl⟩
  · obtain ⟨hlast, hm1, hw2⟩ := hsecond (isTwoWord_long h37)
    have hv : s.remoteSecondWord m w = .ok w2 := by
      rw [State.remoteSecondWord, if_pos (beq_iff_eq.2 h37), nextAddress_eq_ok.2 ⟨hlast, rfl⟩, bind_ok,
        State.readWord_eq_ok.2 ⟨hm1, hw2⟩]
    exact ⟨i, hfetch hv hd, .inl rfl⟩

/-- XEC performs an instruction of the admitted set at its own place, and refuses any other. -/
theorem exec_xec_of_address {s : State} {o : Form} {m : Addr} {w w2 : Word} {i : Instr}
    (hm : s.effectiveAddress (Site.own o.length s) o = .ok m) (hat : wordsAt s m w w2) (hd : decode w w2 = .ok i) :
    exec (.xec o) s = if admitted i then performRemote i (Site.own o.length s) s else .refused .remoteOutsideAdmittedSet := by
  obtain ⟨j, hfetch, hj⟩ := hat.fetchRemote hd
  have hexec : exec (.xec o) s = performXec o (Site.own o.length s) s := rfl
  rw [hexec, performXec, hm, withValue_ok, runRemote, hfetch, withValue_ok]
  obtain rfl | ⟨hj, hi⟩ := hj
  · rfl
  · rw [if_neg (Bool.eq_false_iff.1 hj), if_neg (Bool.eq_false_iff.1 hi)]

section
variable {o : Form} (h : freeOfP o = true) (s : State) (at_ at' : Site)
include h

/-- A form without P has the same address wherever its instruction stands. -/
theorem State.effectiveAddress_freeOfP : s.effectiveAddress at_ o = s.effectiveAddress at' o := by
  cases o with
  | short x d =>
    cases x
    case base | indirect => cases h
    all_goals rfl
  | long x g w2 => rfl

/-- So it has the same location. -/
theorem State.locationOf_freeOfP : s.locationOf at_ o = s.locationOf at' o := by
  cases o with
  | short x d => exact s.effectiveAddress_freeOfP h at_ at'
  | long x g w2 =>
    cases x
    case literal => cases h
    all_goals rfl

/-- So it has the same operand. -/
theorem State.operandOf_freeOfP : s.operandOf at_ o = s.operandOf at' o := by
  by_cases hx : o.modifier = .literal
  · cases o <;> cases hx <;> rfl
  · rw [s.operandOf_eq_bind at_ hx, s.operandOf_eq_bind at' hx, s.effectiveAddress_freeOfP h at_ at']

/-- So it has the same double operand. -/
theorem State.doubleOperandOf_freeOfP : s.doubleOperandOf at_ o = s.doubleOperandOf at' o := by
  rw [State.doubleOperandOf, State.doubleOperandOf, s.effectiveAddress_freeOfP h at_ at']

end

theorem withValue_congr {α : Type} {r r' : Except Stop α} (h : r = r') (k : α → Answer) : withValue r k = withValue r' k := by
  rw [h]

/-- An instruction of the admitted set is performed alike whatever P it sees: its operand does not look at P, and where it
goes on is `next`. -/
theorem performOne_here {i : Instr} (hi : admitted i = true) (here here' : Addr) (next : Nat) (s : State) :
    performOne i ⟨here, next⟩ s = performOne i ⟨here', next⟩ s := by
  cases i
  case lda | lde | add | sub | mpy | lor | and | xor =>
    exact withValue_congr (s.operandOf_freeOfP hi _ ⟨here', next⟩) _
  case ldx1 alt x w2 | ldx2 alt x w2 | ldx4 alt x w2 =>
    exact withValue_congr (s.operandOf_freeOfP (o := longForm x w2) hi _ ⟨here', next⟩) _
  case dla | dad => exact withValue_congr (s.doubleOperandOf_freeOfP hi _ ⟨here', next⟩) _
  case sta | ste => exact withValue_congr (s.locationOf_freeOfP hi _ ⟨here', next⟩) _
  case stx1 alt x w2 | stx2 alt x w2 | stx4 alt x w2 | stz alt x w2 =>
    exact withValue_congr (s.locationOf_freeOfP (o := longForm x w2) hi _ ⟨here', next⟩) _
  case dst | jmp | jci | jlz | jez | jgz => exact withValue_congr (s.effectiveAddress_freeOfP hi _ ⟨here', next⟩) _
  case rsa | rsd | rld | lsa | lsd | rla | lla | lld | csa | csd | nop | mov | cmp | mao | neg => rfl
  all_goals cases hi

/-- Settles O36: the remote fetch, the freedom of P, and that performing an instruction at its own place is executing it. -/
theorem xecPerformsTheRemoteInstruction : Obligations.XecPerformsTheRemoteInstruction := by
  refine ⟨fun o s m w w2 i hm hat hd => ?_, fun i here next s hi => ?_, fun i s hi => ?_⟩
  · rw [exec_xec_of_address hm hat hd]
    exact ⟨fun ha => if_pos ha, fun ha => if_neg (Bool.eq_false_iff.1 ha)⟩
  · rw [performRemote_parameters, performRemote_parameters]
    exact performOne_here hi here s.p next s
  · rw [performRemote_parameters, exec_eq_performOne s hi]

/-- XEC of an instruction of the admitted set is that instruction performed at the place of XEC. -/
theorem exec_xec_of_admitted {s : State} {o : Form} {m : Addr} {w w2 : Word} {i : Instr}
    (hm : s.effectiveAddress (Site.own o.length s) o = .ok m) (hat : wordsAt s m w w2) (hd : decode w w2 = .ok i)
    (hi : admitted i = true) : exec (.xec o) s = performOne i (Site.own o.length s) s := by
  rw [exec_xec_of_address hm hat hd, if_pos hi, performRemote_parameters]

/-- A short literal is a number from 0 to 255. -/
theorem toInt_shortLiteral (d : BitVec 8) : (d.setWidth 16).toInt = d.toNat := by
  rw [BitVec.toInt_setWidth, Int.bmod_eq_of_le] <;> have := d.isLt <;> omega

/-- ADD with a readable operand, at the place of an instruction of `len` words. -/
theorem performAdd_completes {o : Form} {s : State} {v : Word} {len : Nat} {n : Addr} (hv : isOperand s o v)
    (hn : follows s len n) :
    performAdd o (Site.own len s) s =
      .next { s with a := s.a + v, ov := s.ov || !inRange16 (s.a.toInt + v.toInt), p := n } := by
  have hadd : performAdd o (Site.own len s) s = advance (Site.own len s)
      ((s.setA (BitVec.ofInt 16 (s.a.toInt + v.toInt))).ovAfter (.add s.a v)) := withValue_of_ok (hv.operandOf len) _
  rw [hadd, ofInt_toInt_add, State.ovAfter, ovRule_parameters, newOv_add, fits16_eq_inRange16]
  exact hn.advance rfl

/-- One place left n times is n places left (`45_shift.md` rules R245 and R253). -/
theorem times_logicalLeft1 {w : Nat} (n : Nat) (v : BitVec w) : times logicalLeft1 n v = v <<< n := by
  induction n generalizing v with
  | zero => rw [times, BitVec.shiftLeft_zero]
  | succ n ih => rw [times, ih, logicalLeft1, Nat.add_comm, BitVec.shiftLeft_add]

/-- Settles O37: each remote instruction, performed at the place of XEC, goes on at XEC's own `next`, or jumps. -/
theorem xecCompletes : Obligations.XecCompletes := by
  intro o s m w w2 hm hat
  refine ⟨fun n hn => ⟨fun d hd => ?_, fun source hd => ?_, fun k hd => ?_⟩, fun g y hd => ?_⟩
  all_goals rw [exec_xec_of_admitted hm hat hd rfl]
  · rw [← toInt_shortLiteral]
    exact performAdd_completes (o := .short .literal d) rfl hn
  · exact hn.advance (t := s.writeDest 0b00010#5 (s.reg source)) rfl
  · rw [← times_logicalLeft1]
    exact hn.advance rfl
  · exact performJmp_of_address (formAddress_setWidth _)

end Sys2Proof.Machine
end

section
/-! Monitor entry (`44_monitor_entry.md`): SMM sets MM and performs, at its own place, the instruction that location 1
points at. -/

namespace Sys2Proof.Machine

/-- What XEC and SMM make of the instruction at `m`: one of the admitted set is performed, and any other is refused
(`43_jump_branch_skip.md` rule R216). -/
theorem runRemote_of_wordsAt {s : State} {m : Addr} {w w2 : Word} {i : Instr} (at_ : Site) (hat : wordsAt s m w w2)
    (hd : decode w w2 = .ok i) :
    runRemote m at_ s = if admitted i then performRemote i at_ s else .refused .remoteOutsideAdmittedSet := by
  obtain ⟨j, hfetch, hj⟩ := hat.fetchRemote hd
  rw [runRemote, withValue_of_ok hfetch]
  obtain rfl | ⟨hj, hi⟩ := hj
  · rfl
  · rw [if_neg (Bool.eq_false_iff.1 hj), if_neg (Bool.eq_false_iff.1 hi)]

/-- Setting MM moves no word of memory. -/
theorem wordsAt.setMonitorMaster {s : State} {m : Addr} {w w2 : Word} (h : wordsAt s m w w2) :
    wordsAt s.setMonitorMaster m w w2 := h

/-- The address word of SMM is in location 1 where Y is 1. -/
theorem smmLocation_of_eq_one {w2 : Word} (h : w2.setWidth 15 = 1#15) : smmLocation w2 = .ok 1#15 := if_pos h

/-- Any other Y is refused (`44_monitor_entry.md` rule R240 (a)). -/
theorem smmLocation_of_ne_one {w2 : Word} (h : w2.setWidth 15 ≠ 1#15) :
    smmLocation w2 = .error (.refusal .smmSecondWord) := if_neg h

/-- SMM goes to the instruction that its address word points at, with MM set. -/
theorem exec_smm_of_addressWord {s : State} {w2 iw : Word} (h : smmAddressWord s w2 iw) :
    exec (.smm w2) s = runRemote (iw.setWidth 15) (Site.own 2 s) s.setMonitorMaster := by
  obtain ⟨hy, h1, hiw⟩ := h
  have hexec : exec (.smm w2) s = performSmm w2 (Site.own 2 s) s := rfl
  rw [hexec, performSmm, withValue_of_ok (smmLocation_of_eq_one hy), withValue_of_ok (State.readWord_eq_ok.2 ⟨h1, hiw⟩),
    withValue_of_ok (addressIn_parameters iw)]

/-- SMM performs an instruction of the admitted set at its own place, with MM set, and refuses any other. -/
theorem exec_smm_of_wordsAt {s : State} {w2 iw w r : Word} {i : Instr} (h : smmAddressWord s w2 iw)
    (hat : wordsAt s (iw.setWidth 15) w r) (hd : decode w r = .ok i) :
    exec (.smm w2) s =
      if admitted i then performRemote i (Site.own 2 s) s.setMonitorMaster else .refused .remoteOutsideAdmittedSet := by
  rw [exec_smm_of_addressWord h, runRemote_of_wordsAt _ hat.setMonitorMaster hd]

/-- SMM of an instruction of the admitted set is that instruction performed at the place of SMM, with MM set. -/
theorem exec_smm_of_admitted {s : State} {w2 iw w r : Word} {i : Instr} (h : smmAddressWord s w2 iw)
    (hat : wordsAt s (iw.setWidth 15) w r) (hd : decode w r = .ok i) (hi : admitted i = true) :
    exec (.smm w2) s = performOne i (Site.own 2 s) s.setMonitorMaster := by
  rw [exec_smm_of_wordsAt h hat hd, if_pos hi, performRemote_parameters]

/-- Settles O38: SMM is XEC of the instruction location 1 points at, from the state with MM set; Y other than 1 stops
before that. -/
theorem smmSetsMonitorMasterAndExecutes : Obligations.SmmSetsMonitorMasterAndExecutes := by
  refine ⟨fun s w2 iw w r h hat => ⟨fun i hd => ?_, fun g y hd => ?_, fun n source hn hd => ?_⟩, fun s w2 hy => ?_⟩
  · rw [exec_smm_of_wordsAt h hat hd]
    exact ⟨fun ha => if_pos ha, fun ha => if_neg (Bool.eq_false_iff.1 ha)⟩
  · rw [exec_smm_of_admitted h hat hd rfl]
    exact performJmp_of_address (formAddress_setWidth _)
  · rw [exec_smm_of_admitted h hat hd rfl]
    exact hn.advance (t := s.setMonitorMaster.writeDest 0b00010#5 (s.reg source)) rfl
  · exact withValue_of_error (smmLocation_of_ne_one hy) _

end Sys2Proof.Machine
end

section
/-! Shift (`45_shift.md`): the one-place shift n times (rule R245) is the shift by n, which RSA and RSD read as a quotient, and
LSA and LSD as a product with a range. -/

namespace Sys2Proof.Machine

-- One place n times is n places.

/-- Functions `g n` that do nothing at 0, and one more time begin with `f`, are the repetitions of `f`. -/
theorem times_eq_of_succ {α : Type} {f : α → α} {g : Nat → α → α} (hzero : ∀ v, g 0 v = v)
    (hsucc : ∀ n v, g (n + 1) v = g n (f v)) (n : Nat) (v : α) : times f n v = g n v := by
  induction n generalizing v with
  | zero => rw [times, hzero]
  | succ n ih => rw [times, ih, hsucc]

theorem times_arithmeticRight1 {w : Nat} (n : Nat) (v : BitVec w) : times arithmeticRight1 n v = v.sshiftRight n :=
  times_eq_of_succ (g := fun n v => v.sshiftRight n) (fun _ => BitVec.sshiftRight_zero)
    (fun n v => by rw [Nat.add_comm, BitVec.sshiftRight_add, arithmeticRight1]) n v

theorem times_logicalRight1 {w : Nat} (n : Nat) (v : BitVec w) : times logicalRight1 n v = v >>> n :=
  times_eq_of_succ (g := fun n (v : BitVec w) => v >>> n) BitVec.ushiftRight_zero
    (fun n v => by rw [Nat.add_comm, BitVec.shiftRight_add, logicalRight1]) n v

theorem rotateLeft_zero {w : Nat} (v : BitVec w) : v.rotateLeft 0 = v :=
  BitVec.eq_of_getMsbD_eq fun i hi => by simp [BitVec.getMsbD_rotateLeft, hi, Nat.mod_eq_of_lt hi]

/-- A rotation moves the places, counted from the most significant end, modulo the width, so rotations add. -/
theorem rotateLeft_succ {w : Nat} (n : Nat) (v : BitVec w) : v.rotateLeft (n + 1) = (v.rotateLeft 1).rotateLeft n := by
  refine BitVec.eq_of_getMsbD_eq fun i hi => ?_
  have hpos : 0 < w := by omega
  have hplace : (n + 1 + i) % w = (1 + (n + i) % w) % w := by rw [Nat.add_mod_mod, Nat.add_right_comm, Nat.add_comm 1]
  simp only [BitVec.getMsbD_rotateLeft, hplace, Nat.mod_lt _ hpos, decide_true, Bool.true_and]

/-- One place around n times is a rotation by n modulo the width. -/
theorem times_circularLeft1 {w : Nat} (n : Nat) (v : BitVec w) : times circularLeft1 n v = v.rotateLeft (n % w) := by
  rw [BitVec.rotateLeft_mod_eq_rotateLeft]
  exact times_eq_of_succ (g := fun n v => v.rotateLeft n) rotateLeft_zero rotateLeft_succ n v

/-- An arithmetic right shift is the quotient by a power of two, rounded down. -/
theorem times_arithmeticRight1_eq_div {w : Nat} (n : Nat) (v : BitVec w) :
    times arithmeticRight1 n v = BitVec.ofInt w (v.toInt / 2 ^ n) := by
  rw [times_arithmeticRight1, BitVec.sshiftRight, Int.shiftRight_eq_div_pow, Nat.cast_pow, Nat.cast_ofNat]

-- Where a shift goes on.

section
variable {s : State} {m : Addr} (hm : follows s 1 m) (n : BitVec 7)
include hm

/-- A shift of A goes on with the shifted A. -/
theorem follows.shiftA {f : Word → Word} {v : Word} (hv : times f n.toNat s.a = v) :
    shiftA f n (Site.own 1 s) s = .next { s with a := v, p := m } := by
  rw [← hv]
  exact hm.advance rfl

/-- AE set to a double word, where the instruction goes on: A and E are its halves. -/
theorem advance_setAE_of_follows (v : DWord) :
    ∃ hi lo : Word, advance (Site.own 1 s) (s.setAE v) = .next { s with a := hi, e := lo, p := m } ∧ hi ++ lo = v :=
  ⟨_, _, hm.advance rfl, dword_of_halves v⟩

/-- A shift of AE goes on with the shifted AE. -/
theorem follows.shiftAE {f : DWord → DWord} {v : DWord} (hv : times f n.toNat (s.a ++ s.e) = v) :
    ∃ hi lo : Word, shiftAE f n (Site.own 1 s) s = .next { s with a := hi, e := lo, p := m } ∧ hi ++ lo = v :=
  hv ▸ advance_setAE_of_follows hm (times f n.toNat (s.a ++ s.e))

end

/-- Settles O39: the shift by n is the quotient by 2^n, of A and of AE. -/
theorem arithmeticRightShiftsDivide : Obligations.ArithmeticRightShiftsDivide := fun _ n _ _ hm =>
  ⟨hm.shiftA n (times_arithmeticRight1_eq_div _ _), hm.shiftAE n (times_arithmeticRight1_eq_div _ _)⟩

/-- Settles O40: each is its one-place shift n times, of A or of AE. -/
theorem logicalAndCircularShifts : Obligations.LogicalAndCircularShifts := by
  intro d8 n s m hm
  refine ⟨?rla, ?lla, ?csa, ?rld, ?lld, ?csd⟩
  case rla => exact hm.shiftA n (times_logicalRight1 _ _)
  case lla => exact hm.shiftA n (times_logicalLeft1 _ _)
  case csa => exact hm.shiftA n (times_circularLeft1 _ _)
  case rld => exact hm.shiftAE n (times_logicalRight1 _ _)
  case lld => exact hm.shiftAE n (times_logicalLeft1 _ _)
  case csd => exact hm.shiftAE n (times_circularLeft1 _ _)

-- Left shifts that multiply.

/-- The cut of a result in the 32-bit range loses nothing. -/
theorem toInt_ofInt32 {t : Int} (h : inRange32 t = true) : (BitVec.ofInt 32 t).toInt = t := by
  obtain ⟨hlo, hhi⟩ := of_decide_eq_true h
  exact BitVec.toInt_ofInt_eq_self (by decide) (by omega) (by omega)

/-- LSA by the range of its product; OV_RULE keeps OV. -/
theorem exec_lsa (n : BitVec 7) (s : State) :
    exec (.lsa n) s = if inRange16 (s.a.toInt * 2 ^ n.toNat) then
      advance (Site.own 1 s) (s.setA (BitVec.ofInt 16 (s.a.toInt * 2 ^ n.toNat)))
    else .refused .arithmeticLeftShiftLosesSignificance := by
  rw [← fits16_eq_inRange16]
  rfl

/-- LSD by the range of its product; OV_RULE keeps OV. -/
theorem exec_lsd (n : BitVec 7) (s : State) :
    exec (.lsd n) s = if inRange32 ((s.a ++ s.e).toInt * 2 ^ n.toNat) then
      advance (Site.own 1 s) (s.setAE (BitVec.ofInt 32 ((s.a ++ s.e).toInt * 2 ^ n.toNat)))
    else .refused .arithmeticLeftShiftLosesSignificance := by
  rw [← fits32_eq_inRange32]
  rfl

/-- Settles O41: in range the cut product is the product, and out of range both are refused. -/
theorem arithmeticLeftShiftsMultiply : Obligations.ArithmeticLeftShiftsMultiply := by
  intro n s m hm t
  refine ⟨fun ht => ?_, fun ht => ?_⟩
  · rw [exec_lsa, ← ht]
    refine ⟨fun hfit => ⟨BitVec.ofInt 16 t, ?_, toInt_ofInt16 hfit⟩, fun hover => if_neg (Bool.eq_false_iff.1 hover)⟩
    exact (if_pos hfit).trans (hm.advance rfl)
  · rw [exec_lsd, ← ht]
    refine ⟨fun hfit => ?_, fun hover => if_neg (Bool.eq_false_iff.1 hover)⟩
    obtain ⟨hi, lo, hnext, hae⟩ := advance_setAE_of_follows hm (BitVec.ofInt 32 t)
    exact ⟨hi, lo, (if_pos hfit).trans hnext, hae ▸ toInt_ofInt32 hfit⟩

-- A count of zero.

/-- A word of operation 34 is a shift word, whatever its other bits are. -/
theorem decode_shift {w : Word} (h34 : fieldOp w = 0o34#5) (w2 : Word) : decode w w2 = .ok (decodeShift w) := by
  rw [← shiftWord_of_fieldOp h34, decode_shiftWord]

/-- The NOP row comes before the others (`30_encoding.md` rule R117). -/
theorem decodeShift_of_zero {w : Word} (h0 : fieldCount w = 0#7) : decodeShift w = .nop (fieldX w) (fieldBit8 w) :=
  if_pos h0

/-- An instruction that nothing follows has no place to advance to. -/
theorem advance_of_not_follows {s : State} {len : Nat} (h : ¬ ∃ n, follows s len n) :
    advance (Site.own len s) s = .fault .pOutsideMemory := by
  have hplace : s.placeFor (s.p.toNat + len) = .error (.fault .pOutsideMemory) :=
    if_neg fun hin => h ⟨_, follows_of_placeFor (if_pos hin)⟩
  exact withValue_of_error hplace _

/-- Settles O42: the decoder tests the count before X, and NOP only advances. -/
theorem zeroCountShiftsAreNop : Obligations.ZeroCountShiftsAreNop := by
  refine ⟨fun w w2 h34 h0 => ?_, fun x d8 s => ⟨fun n hn => hn.advance rfl, advance_of_not_follows⟩⟩
  rw [decode_shift h34, decodeShift_of_zero h0]
  rfl

end Sys2Proof.Machine
end

section
/-! Input and output (`47_input_output.md`): where the word of an XIO comes from and goes to, the three internal functions,
the event and the skip of an external XIO, and what every step adds to the I/O history. -/

namespace Sys2Proof.Machine

-- Where the word of an XIO comes from and goes to.

/-- An address word names the word that its bits 15-1 address (`47_input_output.md` rule R280). -/
theorem State.sourceWord_via {s : State} {v : Word} (h : s.implemented (v.setWidth 15) = true) :
    s.sourceWord (.via v) = .ok (s.word (v.setWidth 15)) := by
  rw [State.sourceWord, addressIn_parameters, bind_ok, State.readWord_eq_ok.2 ⟨h, rfl⟩]

/-- The word an address word names is also a place for an input word, wherever the instruction stands. -/
theorem State.destLocation_via {s : State} {v : Word} (h : s.implemented (v.setWidth 15) = true) (at_ : Site) :
    s.destLocation at_ (.via v) = .ok (some (v.setWidth 15)) := by
  rw [State.destLocation, addressIn_parameters, bind_ok, State.readWord_eq_ok.2 ⟨h, rfl⟩, map_ok]

/-- The second word of the instruction is a place for an input word where it is in the space and installed. -/
theorem State.destLocation_next {s : State} {at_ : Site} (hlast : at_.here ≠ 0x7FFF#15)
    (h : s.implemented (at_.here + 1#15) = true) (v : Word) :
    s.destLocation at_ (.next v) = .ok (some (at_.here + 1#15)) := by
  rw [State.destLocation, nextAddress_eq_ok.2 ⟨hlast, rfl⟩, bind_ok, State.readWord_eq_ok.2 ⟨h, rfl⟩, map_ok]

/-- Settles O43: the second word and A need no access to memory, and the running machine ignores bit 16 of an address
word. -/
theorem xioWordPlaces : Obligations.XioWordPlaces := fun s v =>
  ⟨rfl, rfl, rfl, fun hlast h => State.destLocation_next (at_ := Site.own 2 s) hlast h v,
    fun h => ⟨State.sourceWord_via h, State.destLocation_via h _⟩⟩

-- An input word at its place.

section
variable (s : State) (place : Option Addr) (w : Word)

@[simp] theorem State.storeInput_p : (s.storeInput place w).p = s.p := by cases place <;> rfl
@[simp] theorem State.storeInput_memWords : (s.storeInput place w).memWords = s.memWords := by cases place <;> rfl
@[simp] theorem State.storeInput_io : (s.storeInput place w).io = s.io := by cases place <;> rfl
@[simp] theorem State.storeInput_draws : (s.storeInput place w).draws = s.draws := by cases place <;> rfl

end

-- Internal Test.

/-- Internal Test finds no condition met exactly where every one it tests is zero. -/
theorem conditionMet_eq_false_iff {s : State} {dw : Word} : s.conditionMet dw = false ↔ allTestedZero s dw := by
  have zero_of_tested (tested value : Bool) : (tested && value) = false ↔ (tested = true → value = false) := by
    cases tested <;> simp
  have switches (p : Nat → Prop) : (∀ i < 4, p i) ↔ p 0 ∧ p 1 ∧ p 2 ∧ p 3 := by
    refine ⟨fun h => ⟨h 0 (by decide), h 1 (by decide), h 2 (by decide), h 3 (by decide)⟩, ?_⟩
    rintro ⟨h0, h1, h2, h3⟩ i hi
    interval_cases i <;> assumption
  simp only [State.conditionMet, allTestedZero, switches, Bool.or_eq_false_iff, zero_of_tested, parameters_sense, and_assoc]

/-- Internal Test with its Output Data Word skips or advances, OV cleared if it is tested. -/
theorem exec_internalTest_of_source {src : XioSource} {s : State} {dw : Word} (h : s.sourceWord src = .ok dw) :
    exec (.internalTest src) s = skipIf (!s.conditionMet dw) (Site.own src.length s) (s.clearOvIf (dw.getLsbD 8)) :=
  withValue_of_ok h _

/-- Settles O44: the skip is decided before OV is cleared, and where the instruction goes on does not depend on OV. -/
theorem internalTestSkipsIfAllZero : Obligations.InternalTestSkipsIfAllZero := by
  intro src s dw hsrc ov'
  rw [exec_internalTest_of_source hsrc]
  refine ⟨fun t hzero ht => ?_, fun n hzero hn => ?_⟩
  · have hskip : skipsTo (s.clearOvIf (dw.getLsbD 8)) src.length t := ht
    exact hskip.skipIf rfl (by rw [conditionMet_eq_false_iff.2 hzero]; rfl)
  · have hmet : s.conditionMet dw = true := Bool.ne_false_iff.1 (mt conditionMet_eq_false_iff.1 hzero)
    exact hn.skipIf rfl (by rw [hmet]; rfl)

-- Internal Set.

/-- The allow flip-flops after Internal Set: each takes bit 1 where it is selected. -/
theorem exec_internalSet_of_source {src : XioSource} {s : State} {dw : Word} (h : s.sourceWord src = .ok dw) :
    exec (.internalSet src) s = advance (Site.own src.length s)
      ((s.setSpio (if dw.getLsbD 9 then dw.getLsbD 0 else s.spio)).setEpi
        (if dw.getLsbD 10 then dw.getLsbD 0 else s.epi)) := by
  have hexec : exec (.internalSet src) s = performInternalSet src (Site.own src.length s) s := rfl
  rw [hexec, performInternalSet, withValue_of_ok h]
  cases dw.getLsbD 9 <;> cases dw.getLsbD 10 <;> rfl

/-- Settles O45: the flip-flops are written at once and Internal Set advances. -/
theorem internalSetWritesTheAllowFlipFlops : Obligations.InternalSetWritesTheAllowFlipFlops := by
  refine ⟨⟨rfl, rfl, rfl⟩, fun src s dw n hsrc hn => ?_⟩
  rw [exec_internalSet_of_source hsrc]
  exact hn.advance rfl

-- Internal Input.

/-- The Input Word field by field, bits 16-12, 11, 10-7 and 6-1. -/
theorem scannerWord_eq_append (s : State) :
    s.scannerWord = 0b00000#5 ++ 1#1 ++ 0b0000#4 ++ Config.scanner s.draws := by
  rw [BitVec.append_def]
  rfl

/-- Internal Input with a place for its word stores the scanner word there and goes on at the place that follows. -/
theorem exec_internalInput_of_place {dst : XioDest} {s : State} {place : Option Addr} {n : Addr}
    (hplace : s.destLocation (Site.own dst.length s) dst = .ok place) (hn : follows s dst.length n) :
    exec (.internalInput dst) s = .next ((s.storeInput place s.scannerWord).setP n) := by
  have hexec : exec (.internalInput dst) s = advance (Site.own dst.length s) (s.storeInput place s.scannerWord) :=
    withValue_of_ok hplace _
  rw [hexec, hn.advance (State.storeInput_memWords ..)]

/-- Settles O46: the place is A or an installed word, and only that and P change. -/
theorem internalInputReadsTheScanner : Obligations.InternalInputReadsTheScanner := by
  refine ⟨⟨rfl, rfl, rfl⟩, fun dst s n hn => ?_⟩
  rw [← scannerWord_eq_append]
  refine ⟨?_, fun m hs hplace => ⟨_, exec_internalInput_of_place hplace hn, storesOnly_putWord hs m _ n⟩⟩
  rintro rfl
  exact exec_internalInput_of_place (place := none) rfl hn

-- External XIO.

/-- A skipping instruction goes on at the place that its condition decides. -/
theorem skipIf_completes {s t : State} {len : Nat} {b : Bool} {n q : Addr} (hn : follows s len n)
    (hq : b = true → skipsTo t len q) (hp : t.p = s.p) (hmem : t.memWords = s.memWords) :
    skipIf b (Site.own len s) t = .next (t.setP (if b then q else n)) := by
  cases hb : b with
  | true => exact (hq hb).skipIf hp rfl
  | false => exact hn.skipIf hmem rfl

/-- The bit that X = 2 puts out, as a word. -/
theorem ofBool_setWidth (c : Bool) : (BitVec.ofBool c).setWidth 16 = if c then 1#16 else 0#16 := by
  cases c <;> rfl

/-- The three kinds of function that take no word in are performed alike, with the word they offer the I/O lines. -/
theorem exec_xio_of_output {f : XioFunction} {c : Bool} {s : State} {out : Option Word} (h : hasOutput s f c out)
    (k : Bool) (ed : BitVec 6) :
    exec (.xio f c k ed) s = performOutput f out c k ed (Site.own f.length s) s := by
  obtain ⟨src, w, rfl, hsrc, rfl⟩ | ⟨rfl, rfl⟩ | ⟨rfl, rfl⟩ := h
  · exact withValue_of_ok hsrc _
  · rw [← ofBool_setWidth]
    rfl
  · rfl

/-- Bit 8 selects the mode, but with X = 2 it is data (`47_input_output.md` rule R277). -/
theorem xioMode_eq (f : XioFunction) (c : Bool) :
    xioMode f c = if c || f == .outputBit then .direct else .compatible := by
  cases f <;> simp [xioMode]

/-- Only with K = 0 is a device asked whether it is ready. -/
theorem k_eq_false_of_ready {k r : Bool} (h : (!k && r) = true) : k = false := by
  cases k with
  | false => rfl
  | true => cases h

/-- Settles O47: the event is recorded whether or not the operation is performed, and where the instruction goes on does not
depend on it. -/
theorem externalOutputRecordsAnEvent : Obligations.ExternalOutputRecordsAnEvent := by
  intro f c k ed s out n q hout hn hq ready mode
  rw [exec_xio_of_output hout, performOutput, xioMode_eq]
  exact skipIf_completes hn (fun hready => hq (k_eq_false_of_ready hready)) rfl rfl

/-- External input with a place for its word: stored there if the operation is performed, recorded either way, and the skip
looks at memory after the store (log 39). -/
theorem exec_xio_input_of_place {dst : XioDest} {c k ready : Bool} {ed : BitVec 6} {mode : IoMode} {w : Word} {s : State}
    {place : Option Addr} {n q : Addr} (hready : deviceReady k ed s = ready) (hmode : xioMode (.input dst) c = mode)
    (hw : Config.ioInput s.io ed mode (statusInput mode k) = w) {event : IoEvent}
    (hevent : ⟨ed, dst.encode.1, mode, k, k || ready, none, if k || ready then some w else none⟩ = event)
    (hplace : s.destLocation (Site.own dst.length s) dst = .ok place) (hn : follows s dst.length n)
    (hq : ready = true → skipsTo (s.storeInput place w) dst.length q) :
    exec (.xio (.input dst) c k ed) s =
      .next (((if k || ready then s.storeInput place w else s).record event).setP (if ready then q else n)) := by
  subst hready hmode hw hevent
  have hexec : exec (.xio (.input dst) c k ed) s = performInput (.input dst) place c k ed (Site.own dst.length s) s :=
    withValue_of_ok hplace _
  rw [hexec, performInput]
  refine skipIf_completes hn (fun hready => ?_) ?_ ?_
  · rw [hready, Bool.or_true, if_pos rfl]
    exact hq hready
  · rw [State.record_p, apply_ite State.p, State.storeInput_p, ite_self]
  · rw [State.record_memWords, apply_ite State.memWords, State.storeInput_memWords, ite_self]

/-- Settles O48: the place is A or an installed word, which keeps its value where the operation is not performed. -/
theorem externalInputStoresTheWordSupplied : Obligations.ExternalInputStoresTheWordSupplied := by
  intro dst c k ed s n q hn ready mode w event
  have hready : deviceReady k ed s = ready := rfl
  have hmode : xioMode (.input dst) c = mode := rfl
  have hw : Config.ioInput s.io ed mode (statusInput mode k) = w := by cases c <;> rfl
  refine ⟨?_, fun m hs hplace hq => ⟨_, exec_xio_input_of_place (event := event) hready hmode hw rfl
    hplace hn fun hskip => hq (k_eq_false_of_ready hskip), ?_⟩⟩
  · rintro rfl hq
    rw [exec_xio_input_of_place (place := none) (event := event) hready hmode hw rfl rfl hn fun hskip =>
      hq (k_eq_false_of_ready hskip)]
    cases k || ready <;> rfl
  · cases k || ready with
    | false =>
      exact ⟨rfl, rfl, fun _ _ _ => rfl, ⟨rfl, rfl, rfl, rfl, rfl⟩, ⟨rfl, rfl, rfl, rfl, rfl⟩, rfl, rfl, rfl⟩
    | true =>
      exact ⟨State.wellFormed.word_putWord hs m w, rfl, fun _ h0 h1 => State.byte_putWord_other s m w h0 h1,
        ⟨rfl, rfl, rfl, rfl, rfl⟩, ⟨rfl, rfl, rfl, rfl, rfl⟩, rfl, rfl, rfl⟩

-- The I/O history.

/-- At most one event is added at the end of the I/O history; the number of installed words and the step counter are the
same. -/
def AppendsAtMostOne (s t : State) : Prop :=
  (t.io = s.io ∨ ∃ event, t.io = s.io ++ [event]) ∧ t.memWords = s.memWords ∧ t.draws = s.draws

/-- Only an external XIO writes an event. -/
theorem Writes.appendsAtMostOne {i : Instr} {s u : State} (h : Writes i s u) : AppendsAtMostOne s u := by
  cases i
  case cls | cld | prs | prd | trn | nrm | tal | sst | lst | pin | xec | smm => exact h.elim
  case xio =>
    obtain ⟨ev, rfl | ⟨dst, w, rfl⟩⟩ := h
    · exact ⟨.inr ⟨ev, rfl⟩, rfl, rfl⟩
    · exact ⟨.inr ⟨ev, by simp⟩, by simp, by simp⟩
  case internalInput =>
    obtain ⟨dst, w, rfl⟩ := h
    exact ⟨.inl (by simp), by simp, by simp⟩
  case jmp | jlz | jez | jgz | kal | kaq | kah | nop | jci | jtb => subst h; exact ⟨.inl rfl, rfl, rfl⟩
  case add | sub | dad | sta | ste | stx1 | stx2 | stx4 | stz | rtj | internalSet =>
    obtain ⟨_, _, rfl⟩ := h; exact ⟨.inl rfl, rfl, rfl⟩
  case dst => obtain ⟨_, _, _, rfl⟩ := h; exact ⟨.inl rfl, rfl, rfl⟩
  case dvd | imt | amt0 | amt2 | amt3 | amt4 | amt5 | amt6 | amt7 =>
    obtain ⟨_, _, _, _, rfl⟩ := h; exact ⟨.inl rfl, rfl, rfl⟩
  all_goals obtain ⟨_, rfl⟩ := h; exact ⟨.inl rfl, rfl, rfl⟩

theorem performOne_appendsAtMostOne {i : Instr} {at_ : Site} {s t : State} (h : performOne i at_ s = .next t) :
    AppendsAtMostOne s t := by
  obtain ⟨u, m, hw, rfl⟩ := performOne_writes h
  exact hw.appendsAtMostOne

/-- XEC and SMM perform one instruction, and set at most MM before it. -/
theorem exec_appendsAtMostOne {i : Instr} {s t : State} (h : exec i s = .next t) : AppendsAtMostOne s t := by
  cases hr : performsRemote i with
  | false =>
    rw [exec_eq_performOne s hr] at h
    exact performOne_appendsAtMostOne h
  | true =>
    obtain ⟨u, m, r, hu, _, _, h⟩ := exec_remote_eq_next hr h
    have appends : AppendsAtMostOne u t := performOne_appendsAtMostOne h
    obtain rfl | rfl := hu <;> exact appends

/-- Settles O53: a step executes one instruction, and only the step itself moves the counter on. -/
theorem stepAppendsToTheHistory : Obligations.StepAppendsToTheHistory := by
  intro s t h
  obtain ⟨_, i, _, s', hexec, rfl⟩ := step_eq_next.1 h
  obtain ⟨hio, hwords, hdraws⟩ := exec_appendsAtMostOne hexec
  exact ⟨hio, hwords, by rw [State.tick_draws, hdraws]; exact Nat.lt_succ_self _⟩

end Sys2Proof.Machine
end

section
/-! Miscellaneous (`48_miscellaneous.md`): MOV, CMP, MAO and NEG write every register DEST selects, and NEG is CMP then
MAO. -/

namespace Sys2Proof.Machine

section
variable {s : State} {n : Addr} (hn : follows s 1 n) (dest : BitVec 5) (source : BitVec 3)
include hn

-- What each of the four goes on with.

/-- A register transfer goes on at the place that follows, whatever became of OV before it. -/
theorem follows.moveWith {u : State} (hu : u.memWords = s.memWords) (f : Word → Word) :
    moveWith f dest source (Site.own 1 s) u = .next ((u.writeDest dest (f (u.reg source))).setP n) :=
  hn.advance hu

theorem follows.exec_mov : exec (.mov dest source) s = .next ((s.writeDest dest (s.reg source)).setP n) :=
  hn.moveWith dest source rfl fun v => v

theorem follows.exec_cmp : exec (.cmp dest source) s = .next ((s.writeDest dest (~~~s.reg source)).setP n) :=
  hn.moveWith dest source rfl fun v => ~~~v

theorem follows.exec_mao :
    exec (.mao dest source) s =
      .next (((s.ovAfter (.mao (s.reg source))).writeDest dest (s.reg source + 1#16)).setP n) :=
  hn.moveWith dest source (u := s.ovAfter (.mao (s.reg source))) rfl fun v => v + 1#16

theorem follows.exec_neg :
    exec (.neg dest source) s =
      .next (((s.ovAfter (.neg (s.reg source))).writeDest dest (-s.reg source)).setP n) := by
  rw [← BitVec.zero_sub]
  exact hn.moveWith dest source (u := s.ovAfter (.neg (s.reg source))) rfl fun v => 0#16 - v

end

/-- MAO keeps OV but where the sum overflows (`41_arithmetic.md` rule R187). -/
theorem State.ovAfter_mao_ov (s : State) {v : Word} (hv : v ≠ 0x7FFF#16) : (s.ovAfter (.mao v)).ov = s.ov := by
  rw [State.ovAfter_ov, ovRule_parameters, newOv_mao, if_neg hv]

/-- NEG keeps OV but for the one word without a negation in 16 bits (`41_arithmetic.md` rule R187). -/
theorem State.ovAfter_neg_ov (s : State) {v : Word} (hv : v ≠ 0x8000#16) : (s.ovAfter (.neg v)).ov = s.ov := by
  rw [State.ovAfter_ov, ovRule_parameters, newOv_neg, if_neg hv]

/-- Settles O49: with the map `shifted` the five selections of `writeDest` are the bits of DEST themselves, and OV after MAO
and NEG is that of OV_RULE. -/
theorem movFamilyWritesEveryDestination : Obligations.MovFamilyWritesEveryDestination := fun dest source s _ hn =>
  ⟨hn.exec_mov dest source, hn.exec_cmp dest source,
    ⟨_, hn.exec_mao dest source, s.ovAfter_mao_ov⟩, ⟨_, hn.exec_neg dest source, s.ovAfter_neg_ov⟩⟩

/-- Settles O50: A after CMP is the complement, which MAO of A adds one to, and no other register is selected. -/
theorem negIsMaoOfCmp : Obligations.NegIsMaoOfCmp := by
  intro source s n n' hn hn'
  have ht : follows ((s.writeDest 0b00010#5 (~~~s.reg source)).setP n) 1 n' := hn'
  have hneg : ~~~s.reg source + 1#16 = -s.reg source := (BitVec.neg_eq_not_add _).symm
  exact ⟨_, _, _, hn.exec_cmp _ source, ht.exec_mao _ 4#3, hn.exec_neg _ source, hneg, rfl, rfl, rfl, rfl⟩

end Sys2Proof.Machine
end

section
/-! Exceptions (`60_exceptions.md`), Monitor Master and INTR: no meaning reads the two flip-flops,
and nothing but SMM writes the one and nothing but JCI the other. -/

namespace Sys2Proof.Machine

/-- The state with Monitor Master and INTR changed, and nothing else. -/
def State.mapMonitor (mm intr : Bool → Bool) (s : State) : State := { s with mm := mm s.mm, intr := intr s.intr }

/-- The second answer is the first with Monitor Master and INTR of its next state changed. -/
def SameButMonitor (mm intr : Bool → Bool) (r r' : Answer) : Prop := r' = mapNext (State.mapMonitor mm intr) r

section
variable {mm intr : Bool → Bool}

theorem SameButMonitor.next (s : State) : SameButMonitor mm intr (.next s) (.next (s.mapMonitor mm intr)) := rfl

theorem SameButMonitor.refused (x : Refusal) : SameButMonitor mm intr (.refused x) (.refused x) := rfl

theorem SameButMonitor.ite {p : Prop} [Decidable p] {r₁ r₁' r₂ r₂' : Answer} (h₁ : SameButMonitor mm intr r₁ r₁')
    (h₂ : SameButMonitor mm intr r₂ r₂') : SameButMonitor mm intr (if p then r₁ else r₂) (if p then r₁' else r₂') := by
  split
  · exact h₁
  · exact h₂

/-- Two meanings that start with the same part answer alike if what they do with its value does. -/
theorem SameButMonitor.withValue {α : Type} {r : Except Stop α} {k k' : α → Answer}
    (h : ∀ v, SameButMonitor mm intr (k v) (k' v)) : SameButMonitor mm intr (withValue r k) (withValue r k') := by
  cases r with
  | ok v => exact h v
  | error e => cases e <;> rfl

/-- The same where the part is a store, whose value is a state with that change. -/
theorem SameButMonitor.withStored {r r' : Except Stop State} {k k' : State → Answer}
    (hr : r' = r.map (State.mapMonitor mm intr)) (h : ∀ u, SameButMonitor mm intr (k u) (k' (u.mapMonitor mm intr))) :
    SameButMonitor mm intr (Machine.withValue r k) (Machine.withValue r' k') := by
  subst hr
  cases r with
  | ok u => exact h u
  | error e => cases e <;> rfl

-- What the shared operations do.

section
variable (s : State)

theorem State.writeWord_mapMonitor (a : Addr) (w : Word) :
    (s.mapMonitor mm intr).writeWord a w = (s.writeWord a w).map (State.mapMonitor mm intr) := by
  rw [State.writeWord, State.writeWord, apply_ite (Except.map _)]
  rfl

theorem State.writeDouble_mapMonitor (m : Addr) (hi lo : Word) :
    (s.mapMonitor mm intr).writeDouble m hi lo = (s.writeDouble m hi lo).map (State.mapMonitor mm intr) := by
  rw [State.writeDouble, State.writeDouble, State.writeWord_mapMonitor]
  cases s.writeWord m hi with
  | error e => rfl
  | ok u =>
    cases nextAddress m with
    | error e => rfl
    | ok m1 => exact u.writeWord_mapMonitor m1 lo

theorem State.storeInput_mapMonitor (dst : Option Addr) (w : Word) :
    (s.mapMonitor mm intr).storeInput dst w = (s.storeInput dst w).mapMonitor mm intr := by
  cases dst <;> rfl

/-- A cleared INTR must stay cleared. -/
theorem State.clearInterrupt_mapMonitor (h : intr false = false) :
    (s.mapMonitor mm intr).clearInterrupt = s.clearInterrupt.mapMonitor mm intr := by
  simp [State.clearInterrupt, State.mapMonitor, h]

/-- A set MM must stay set. -/
theorem State.setMonitorMaster_mapMonitor (h : mm true = true) :
    (s.mapMonitor mm intr).setMonitorMaster = s.setMonitorMaster.mapMonitor mm intr := by
  simp [State.setMonitorMaster, State.mapMonitor, h]

theorem continueAt_sameButMonitor (t : Nat) :
    SameButMonitor mm intr (continueAt t s) (continueAt t (s.mapMonitor mm intr)) := .withValue fun _ => .next _

theorem advance_sameButMonitor (at_ : Site) : SameButMonitor mm intr (advance at_ s) (advance at_ (s.mapMonitor mm intr)) :=
  continueAt_sameButMonitor s at_.next

theorem skipIf_sameButMonitor (b : Bool) (at_ : Site) :
    SameButMonitor mm intr (skipIf b at_ s) (skipIf b at_ (s.mapMonitor mm intr)) := by
  cases b with
  | false => exact advance_sameButMonitor s at_
  | true =>
    show SameButMonitor mm intr (skip at_ s) (skip at_ (s.mapMonitor mm intr))
    rw [skip_own, skip_own]
    exact .withValue fun _ => continueAt_sameButMonitor s _

theorem jumpIf_sameButMonitor (b : Bool) (o : Form) (at_ : Site) :
    SameButMonitor mm intr (jumpIf b o at_ s) (jumpIf b o at_ (s.mapMonitor mm intr)) :=
  .withValue fun m => by
    cases b with
    | false => exact advance_sameButMonitor s at_
    | true => exact .next _

theorem storeWord_sameButMonitor (w : Word) (o : Form) (at_ : Site) :
    SameButMonitor mm intr (storeWord w o at_ s) (storeWord w o at_ (s.mapMonitor mm intr)) :=
  .withValue fun m => .withStored (s.writeWord_mapMonitor m w) fun u => advance_sameButMonitor u at_

theorem addToMemory_sameButMonitor (k : BitVec 3) (o : Form) (at_ : Site) :
    SameButMonitor mm intr (addToMemory k o at_ s) (addToMemory k o at_ (s.mapMonitor mm intr)) :=
  .withValue fun m => .withValue fun _ => .withStored (s.writeWord_mapMonitor m _) fun u =>
    skipIf_sameButMonitor (u.ovAfter _) _ at_

-- The instructions that do more than one of these.

theorem performDst_sameButMonitor (o : Form) (at_ : Site) :
    SameButMonitor mm intr (performDst o at_ s) (performDst o at_ (s.mapMonitor mm intr)) :=
  .withValue fun m => .withStored (s.writeDouble_mapMonitor m s.a s.e) fun u => advance_sameButMonitor u at_

theorem performRtj_sameButMonitor (o : Form) (at_ : Site) :
    SameButMonitor mm intr (performRtj o at_ s) (performRtj o at_ (s.mapMonitor mm intr)) :=
  .withValue fun m => .withValue fun w => .withValue fun _ =>
    .withStored (s.writeWord_mapMonitor m w) fun _ => .next _

theorem performInput_sameButMonitor (f : XioFunction) (dst : Option Addr) (bit8 k : Bool) (ed : BitVec 6) (at_ : Site) :
    SameButMonitor mm intr (performInput f dst bit8 k ed at_ s)
      (performInput f dst bit8 k ed at_ (s.mapMonitor mm intr)) := by
  simp only [performInput, State.storeInput_mapMonitor, ← apply_ite (State.mapMonitor mm intr)]
  exact skipIf_sameButMonitor (State.record _ _) _ at_

theorem performXio_sameButMonitor (f : XioFunction) (bit8 k : Bool) (ed : BitVec 6) (at_ : Site) :
    SameButMonitor mm intr (performXio f bit8 k ed at_ s) (performXio f bit8 k ed at_ (s.mapMonitor mm intr)) := by
  cases f with
  | output src => exact .withValue fun w => skipIf_sameButMonitor (s.record _) _ at_
  | outputBit => exact skipIf_sameButMonitor (s.record _) _ at_
  | control => exact skipIf_sameButMonitor (s.record _) _ at_
  | input dst => exact .withValue fun m => performInput_sameButMonitor s _ m bit8 k ed at_

theorem performDvd_sameButMonitor (o : Form) (at_ : Site) :
    SameButMonitor mm intr (performDvd o at_ s) (performDvd o at_ (s.mapMonitor mm intr)) :=
  .withValue fun v => by
    show SameButMonitor mm intr (match defaultDvdFn s.ae v with | some (q, r) => _ | none => _)
      (match defaultDvdFn s.ae v with | some (q, r) => _ | none => _)
    cases defaultDvdFn s.ae v with
    | none => exact advance_sameButMonitor (State.ovAfter _ _) at_
    | some qr => exact skipIf_sameButMonitor (State.ovAfter _ _) true at_

theorem performInternalSet_sameButMonitor (src : XioSource) (at_ : Site) :
    SameButMonitor mm intr (performInternalSet src at_ s) (performInternalSet src at_ (s.mapMonitor mm intr)) :=
  .withValue fun dw => by
    cases dw.getLsbD 9 <;> cases dw.getLsbD 10 <;> exact advance_sameButMonitor _ at_

end

/-- Every instruction but XEC and SMM answers the same with another MM and INTR, where a cleared INTR stays cleared (JCI). -/
theorem performOne_sameButMonitor (hintr : intr false = false) (i : Instr) (at_ : Site) (s : State) :
    SameButMonitor mm intr (performOne i at_ s) (performOne i at_ (s.mapMonitor mm intr)) := by
  cases i
  case lda | lde | ldx1 | ldx2 | ldx4 | dla | add | sub | mpy | dad | lor | and | xor =>
    exact .withValue fun v => advance_sameButMonitor _ at_
  case mov | cmp | mao | neg | nop | rsa | rla | lla | csa | rsd | rld | lld | csd =>
    exact advance_sameButMonitor _ at_
  case sta | ste | stx1 | stx2 | stx4 | stz => exact storeWord_sameButMonitor s _ _ at_
  case dst => exact performDst_sameButMonitor s _ at_
  case dvd => exact performDvd_sameButMonitor s _ at_
  case axd1 | axd2 | axd4 => exact .next _
  case jmp => exact .withValue fun _ => .next _
  case jci =>
    exact .withValue fun m => by
      rw [State.clearInterrupt_mapMonitor s hintr]
      exact .next (s.clearInterrupt.setP m)
  case jlz | jez | jgz => exact jumpIf_sameButMonitor s _ _ at_
  case rtj => exact performRtj_sameButMonitor s _ at_
  case jtb => exact .withValue fun _ => .withValue fun _ => .next _
  case kal | kaq | kah => exact .withValue fun _ => skipIf_sameButMonitor s _ at_
  case imt | amt0 | amt2 | amt3 | amt4 | amt5 | amt6 | amt7 => exact addToMemory_sameButMonitor s _ _ at_
  case lsa | lsd => exact .ite (advance_sameButMonitor (State.ovAfter _ _) at_) (.refused _)
  case xio => exact performXio_sameButMonitor s _ _ _ _ at_
  case internalTest => exact .withValue fun dw => skipIf_sameButMonitor (s.clearOvIf _) _ at_
  case internalSet => exact performInternalSet_sameButMonitor s _ at_
  case internalInput =>
    exact .withValue fun m => by
      rw [State.storeInput_mapMonitor]
      exact advance_sameButMonitor _ at_
  case cls | cld | prs | prd | trn | nrm | tal | sst | lst | pin | xec | smm => exact .refused _

/-- So does the remote instruction of XEC and SMM. -/
theorem runRemote_sameButMonitor (hintr : intr false = false) (m : Addr) (at_ : Site) (s : State) :
    SameButMonitor mm intr (runRemote m at_ s) (runRemote m at_ (s.mapMonitor mm intr)) :=
  .withValue fun i => .ite (by simpa using performOne_sameButMonitor hintr i at_ s) (.refused _)

/-- And so does every instruction, where a set MM also stays set (SMM). -/
theorem exec_sameButMonitor (hmm : mm true = true) (hintr : intr false = false) (i : Instr) (s : State) :
    SameButMonitor mm intr (exec i s) (exec i (s.mapMonitor mm intr)) := by
  cases hi : performsRemote i with
  | false =>
    rw [exec_eq_performOne _ hi, exec_eq_performOne _ hi]
    exact performOne_sameButMonitor hintr i _ s
  | true =>
    cases i
    case xec o => exact .withValue fun m => runRemote_sameButMonitor hintr m _ s
    case smm w2 =>
      refine .withValue fun _ => .withValue fun _ => .withValue fun m => ?_
      rw [State.setMonitorMaster_mapMonitor s hmm]
      exact runRemote_sameButMonitor hintr m _ s.setMonitorMaster
    all_goals cases hi

theorem SameButMonitor.ticked {r r' : Answer} (h : SameButMonitor mm intr r r') :
    SameButMonitor mm intr (ticked r) (ticked r') := by
  subst h
  cases r <;> rfl

/-- A step looks for interrupts, fetches and executes without looking at MM and INTR. -/
theorem step_sameButMonitor (hmm : mm true = true) (hintr : intr false = false) (s : State) :
    SameButMonitor mm intr (step s) (step (s.mapMonitor mm intr)) :=
  .ite (.refused _) (.withValue fun i => (exec_sameButMonitor hmm hintr i s).ticked)

end

/-- Settles O57: both are changes of MM and INTR that keep a set MM set and a cleared INTR cleared. -/
theorem monitorMasterAndIntrAreReadByNothing : Obligations.MonitorMasterAndIntrAreReadByNothing := fun s =>
  ⟨step_sameButMonitor (mm := fun _ => true) (intr := id) rfl rfl s,
    step_sameButMonitor (mm := id) (intr := fun _ => false) rfl rfl s⟩

-- Who changes MM and INTR.

@[simp] theorem State.storeInput_mm (s : State) (dst : Option Addr) (w : Word) : (s.storeInput dst w).mm = s.mm := by
  cases dst <;> rfl

@[simp] theorem State.storeInput_intr (s : State) (dst : Option Addr) (w : Word) :
    (s.storeInput dst w).intr = s.intr := by
  cases dst <;> rfl

/-- No instruction but XEC and SMM writes MM, and none but JCI writes INTR. -/
theorem Writes.monitor {i : Instr} {s u : State} (h : Writes i s u) :
    u.mm = s.mm ∧ (u.intr = s.intr ∨ u.intr = false ∧ ∃ o, i = .jci o) := by
  cases i
  case cls | cld | prs | prd | trn | nrm | tal | sst | lst | pin | xec | smm => exact h.elim
  case jci o => subst h; exact ⟨rfl, .inr ⟨rfl, o, rfl⟩⟩
  case xio => obtain ⟨ev, rfl | ⟨dst, w, rfl⟩⟩ := h <;> exact ⟨by simp, .inl (by simp)⟩
  case internalInput => obtain ⟨dst, w, rfl⟩ := h; exact ⟨by simp, .inl (by simp)⟩
  case jmp | jlz | jez | jgz | kal | kaq | kah | nop | jtb => subst h; exact ⟨rfl, .inl rfl⟩
  case add | sub | dad | sta | ste | stx1 | stx2 | stx4 | stz | rtj | internalSet =>
    obtain ⟨_, _, rfl⟩ := h; exact ⟨rfl, .inl rfl⟩
  case dst => obtain ⟨_, _, _, rfl⟩ := h; exact ⟨rfl, .inl rfl⟩
  case dvd | imt | amt0 | amt2 | amt3 | amt4 | amt5 | amt6 | amt7 =>
    obtain ⟨_, _, _, _, rfl⟩ := h; exact ⟨rfl, .inl rfl⟩
  all_goals obtain ⟨_, rfl⟩ := h; exact ⟨rfl, .inl rfl⟩

theorem performOne_monitor {i : Instr} {at_ : Site} {s t : State} (h : performOne i at_ s = .next t) :
    t.mm = s.mm ∧ (t.intr = s.intr ∨ t.intr = false ∧ ∃ o, i = .jci o) := by
  obtain ⟨u, m, hw, rfl⟩ := performOne_writes h
  exact hw.monitor

/-- The remote instruction is performed by its own rule, so it may be a JCI but sets no MM. -/
theorem runRemote_monitor {m : Addr} {at_ : Site} {s t : State} (h : runRemote m at_ s = .next t) :
    t.mm = s.mm ∧ (t.intr = s.intr ∨ t.intr = false) := by
  obtain ⟨r, _, _, h⟩ := runRemote_eq_next.1 h
  obtain ⟨hmm, hintr⟩ := performOne_monitor (performRemote_parameters r at_ s ▸ h)
  exact ⟨hmm, hintr.imp_right And.left⟩

/-- Settles O58: XEC and SMM do what their remote instruction does, SMM with MM set; every other instruction writes its own
part of the state. -/
theorem onlySmmSetsMonitorMaster : Obligations.OnlySmmSetsMonitorMaster := by
  intro i s t h
  cases hi : performsRemote i with
  | false =>
    rw [exec_eq_performOne s hi] at h
    obtain ⟨hmm, hintr⟩ := performOne_monitor h
    have hsmm : ∀ w2, i ≠ .smm w2 := by rintro w2 rfl; cases hi
    exact ⟨by simp [hmm, hsmm], hintr.imp_right fun ⟨hclear, hjci⟩ => ⟨hclear, .inr hjci⟩⟩
  | true =>
    cases i
    case xec o =>
      obtain ⟨m, _, h⟩ := withValue_eq_next.1 h
      obtain ⟨hmm, hintr⟩ := runRemote_monitor h
      exact ⟨by simp [hmm], hintr.imp_right fun hclear => ⟨hclear, .inl rfl⟩⟩
    case smm w2 =>
      obtain ⟨_, _, h⟩ := withValue_eq_next.1 h
      obtain ⟨_, _, h⟩ := withValue_eq_next.1 h
      obtain ⟨m, _, h⟩ := withValue_eq_next.1 h
      obtain ⟨hmm, hintr⟩ := runRemote_monitor h
      exact ⟨by simp [hmm], hintr.imp_right fun hclear => ⟨hclear, .inl rfl⟩⟩
    all_goals cases hi

end Sys2Proof.Machine
end

section
/-! Exceptions (`60_exceptions.md`), interrupt requests: the refusal of an allowed one (rule R326) is the step's own, and no
part of a fetch or of an instruction answers it. -/

namespace Sys2Proof.Machine

/-- A part of a meaning that does not stop with the refusal of an interrupt request. -/
def NoInterruptIn {α : Type} (r : Except Stop α) : Prop := r ≠ .error (.refusal .interruptEntryNotInSource)

/-- An answer that is not the refusal of an interrupt request. -/
def NoInterrupt (r : Answer) : Prop := r ≠ .refused .interruptEntryNotInSource

theorem NoInterruptIn.ok {α : Type} (v : α) : NoInterruptIn (.ok v) := nofun

theorem NoInterruptIn.fault {α : Type} (f : Fault) : NoInterruptIn (.error (.fault f) : Except Stop α) := nofun

theorem NoInterruptIn.ite {α : Type} {p : Prop} [Decidable p] {r₁ r₂ : Except Stop α} (h₁ : NoInterruptIn r₁)
    (h₂ : NoInterruptIn r₂) : NoInterruptIn (if p then r₁ else r₂) := by
  split
  · exact h₁
  · exact h₂

theorem NoInterruptIn.bind {α β : Type} {r : Except Stop α} {k : α → Except Stop β} (h : NoInterruptIn r)
    (hk : ∀ v, NoInterruptIn (k v)) : NoInterruptIn (r.bind k) := by
  cases r with
  | ok v => exact hk v
  | error e => exact fun he => h (congrArg _ (Except.error.inj he))

theorem NoInterruptIn.map {α β : Type} {r : Except Stop α} {f : α → β} (h : NoInterruptIn r) :
    NoInterruptIn (r.map f) := by
  cases r with
  | ok v => exact .ok _
  | error e => exact fun he => h (congrArg _ (Except.error.inj he))

theorem NoInterrupt.next (s : State) : NoInterrupt (.next s) := nofun

theorem NoInterrupt.ite {p : Prop} [Decidable p] {r₁ r₂ : Answer} (h₁ : NoInterrupt r₁) (h₂ : NoInterrupt r₂) :
    NoInterrupt (if p then r₁ else r₂) := by
  split
  · exact h₁
  · exact h₂

theorem NoInterrupt.withValue {α : Type} {r : Except Stop α} {k : α → Answer} (h : NoInterruptIn r)
    (hk : ∀ v, NoInterrupt (k v)) : NoInterrupt (withValue r k) := by
  cases r with
  | ok v => exact hk v
  | error e =>
    cases e with
    | fault f => nofun
    | refusal x => exact fun he => h (congrArg _ (congrArg _ (Host.Outcome.refused.inj he)))

-- Memory and operands.

theorem nextAddress_noInterrupt (m : Addr) : NoInterruptIn (nextAddress m) := .ite (.fault _) (.ok _)

theorem formAddress_noInterrupt (v : Word) : NoInterruptIn (formAddress v) := .ite (.fault _) (.ok _)

theorem relativeAddress_noInterrupt (here : Addr) (d : BitVec 8) : NoInterruptIn (relativeAddress here d) :=
  .ite (.ok _) (formAddress_noInterrupt _)

theorem signedRow_noInterrupt (base : Word) (d : BitVec 8) : NoInterruptIn (signedRow base d) := by
  rw [signedRow_parameters]
  exact .ok _

theorem addressIn_noInterrupt (iw : Word) : NoInterruptIn (addressIn iw) := by
  rw [addressIn_parameters]
  exact .ok _

theorem smmLocation_noInterrupt (w2 : Word) : NoInterruptIn (smmLocation w2) := .ite (.ok _) nofun

theorem returnWord_noInterrupt (at_ : Site) : NoInterruptIn (returnWord at_) := .ite (.ok _) (.fault _)

theorem decoded_noInterrupt (w w2 : Word) : NoInterruptIn (decoded w w2) := by
  unfold decoded
  split
  · exact .ok _
  · nofun

section
variable (s : State)

theorem State.readWord_noInterrupt (a : Addr) : NoInterruptIn (s.readWord a) := .ite (.ok _) (.fault _)

theorem State.writeWord_noInterrupt (a : Addr) (w : Word) : NoInterruptIn (s.writeWord a w) := .ite (.ok _) (.fault _)

theorem State.placeFor_noInterrupt (t : Nat) : NoInterruptIn (s.placeFor t) := .ite (.ok _) (.fault _)

theorem State.readDouble_noInterrupt (m : Addr) : NoInterruptIn (s.readDouble m) :=
  (s.readWord_noInterrupt m).bind fun _ => (nextAddress_noInterrupt m).bind fun _ => (s.readWord_noInterrupt _).map

theorem State.writeDouble_noInterrupt (m : Addr) (hi lo : Word) : NoInterruptIn (s.writeDouble m hi lo) :=
  (s.writeWord_noInterrupt m hi).bind fun u => (nextAddress_noInterrupt m).bind fun _ => u.writeWord_noInterrupt _ lo

theorem State.indirectVia_noInterrupt (v : Word) : NoInterruptIn (s.indirectVia v) :=
  (formAddress_noInterrupt v).bind fun _ => (s.readWord_noInterrupt _).bind addressIn_noInterrupt

theorem State.shortAddress_noInterrupt (here : Addr) (x : Modifier) (d : BitVec 8) :
    NoInterruptIn (s.shortAddress here x d) := by
  cases x
  case base => exact relativeAddress_noInterrupt here d
  case x2 | x1x2 => exact formAddress_noInterrupt _
  case x1 | x4 => exact (signedRow_noInterrupt _ d).bind formAddress_noInterrupt
  case indirect | indirectX1 => exact (signedRow_noInterrupt _ d).bind s.indirectVia_noInterrupt
  case literal => nofun

theorem State.longAddress_noInterrupt (x : Modifier) (w2 : Word) : NoInterruptIn (s.longAddress x w2) := by
  cases x
  case base | x1 | x2 | x1x2 | x4 => exact formAddress_noInterrupt _
  case indirect | indirectX1 => exact s.indirectVia_noInterrupt _
  case literal => nofun

theorem State.effectiveAddress_noInterrupt (at_ : Site) (o : Form) : NoInterruptIn (s.effectiveAddress at_ o) := by
  cases o with
  | short x d => exact s.shortAddress_noInterrupt at_.here x d
  | long x g w2 => exact s.longAddress_noInterrupt x w2

/-- A location is P + 1 or an effective address. -/
theorem State.locationOf_noInterrupt (at_ : Site) (o : Form) : NoInterruptIn (s.locationOf at_ o) := by
  unfold State.locationOf
  split
  · exact s.shortAddress_noInterrupt at_.here _ _
  · exact nextAddress_noInterrupt at_.here
  · exact s.longAddress_noInterrupt _ _

/-- An operand is a literal or the word at an effective address. -/
theorem State.operandOf_noInterrupt (at_ : Site) (o : Form) : NoInterruptIn (s.operandOf at_ o) := by
  unfold State.operandOf
  split
  · exact .ok _
  · exact (s.shortAddress_noInterrupt at_.here _ _).bind s.readWord_noInterrupt
  · exact .ok _
  · exact (s.longAddress_noInterrupt _ _).bind s.readWord_noInterrupt

theorem State.doubleOperandOf_noInterrupt (at_ : Site) (o : Form) : NoInterruptIn (s.doubleOperandOf at_ o) :=
  (s.effectiveAddress_noInterrupt at_ o).bind s.readDouble_noInterrupt

theorem State.sourceWord_noInterrupt (src : XioSource) : NoInterruptIn (s.sourceWord src) := by
  cases src with
  | next data => exact .ok _
  | via address => exact (addressIn_noInterrupt address).bind s.readWord_noInterrupt
  | a => exact .ok _

theorem State.destLocation_noInterrupt (at_ : Site) (dst : XioDest) : NoInterruptIn (s.destLocation at_ dst) := by
  cases dst with
  | next old => exact (nextAddress_noInterrupt at_.here).bind fun m => (s.readWord_noInterrupt m).map
  | via address => exact (addressIn_noInterrupt address).bind fun m => (s.readWord_noInterrupt m).map
  | a => exact .ok _

theorem State.fetch_noInterrupt : NoInterruptIn s.fetch :=
  (s.readWord_noInterrupt s.p).bind fun w => .bind
    (.ite ((nextAddress_noInterrupt s.p).bind s.readWord_noInterrupt) (.ok _)) fun w2 => decoded_noInterrupt w w2

theorem State.fetchRemote_noInterrupt (m : Addr) : NoInterruptIn (s.fetchRemote m) :=
  (s.readWord_noInterrupt m).bind fun w => .bind
    (.ite ((nextAddress_noInterrupt m).bind s.readWord_noInterrupt) (.ok _)) fun w2 => decoded_noInterrupt w w2

-- Where an instruction continues.

theorem continueAt_noInterrupt (t : Nat) : NoInterrupt (continueAt t s) :=
  .withValue (s.placeFor_noInterrupt t) fun _ => .next _

theorem advance_noInterrupt (at_ : Site) : NoInterrupt (advance at_ s) := continueAt_noInterrupt s at_.next

theorem skip_noInterrupt (at_ : Site) : NoInterrupt (skip at_ s) := by
  rw [skip_own]
  exact .withValue (s.placeFor_noInterrupt at_.next) fun _ => continueAt_noInterrupt s _

theorem skipIf_noInterrupt (b : Bool) (at_ : Site) : NoInterrupt (skipIf b at_ s) :=
  .ite (skip_noInterrupt s at_) (advance_noInterrupt s at_)

-- The shapes of the meanings.

theorem storeWord_noInterrupt (w : Word) (o : Form) (at_ : Site) : NoInterrupt (storeWord w o at_ s) :=
  .withValue (s.locationOf_noInterrupt at_ o) fun m => .withValue (s.writeWord_noInterrupt m w) fun u =>
    advance_noInterrupt u at_

theorem jumpIf_noInterrupt (b : Bool) (o : Form) (at_ : Site) : NoInterrupt (jumpIf b o at_ s) :=
  .withValue (s.effectiveAddress_noInterrupt at_ o) fun _ => .ite (.next _) (advance_noInterrupt s at_)

theorem addToMemory_noInterrupt (k : BitVec 3) (o : Form) (at_ : Site) : NoInterrupt (addToMemory k o at_ s) :=
  .withValue (s.locationOf_noInterrupt at_ o) fun m => .withValue (s.readWord_noInterrupt m) fun _ =>
    .withValue (s.writeWord_noInterrupt m _) fun _ => skipIf_noInterrupt _ _ at_

-- The instructions with a shape of their own.

theorem performDvd_noInterrupt (o : Form) (at_ : Site) : NoInterrupt (performDvd o at_ s) :=
  .withValue (s.operandOf_noInterrupt at_ o) fun v => by
    split
    · exact skip_noInterrupt _ at_
    · exact advance_noInterrupt _ at_

theorem performDst_noInterrupt (o : Form) (at_ : Site) : NoInterrupt (performDst o at_ s) :=
  .withValue (s.effectiveAddress_noInterrupt at_ o) fun m => .withValue (s.writeDouble_noInterrupt m s.a s.e) fun u =>
    advance_noInterrupt u at_

theorem performRtj_noInterrupt (o : Form) (at_ : Site) : NoInterrupt (performRtj o at_ s) :=
  .withValue (s.effectiveAddress_noInterrupt at_ o) fun m => .withValue (returnWord_noInterrupt at_) fun w =>
    .withValue (nextAddress_noInterrupt m) fun _ => .withValue (s.writeWord_noInterrupt m w) fun _ => .next _

theorem performJtb_noInterrupt (o : Form) (at_ : Site) : NoInterrupt (performJtb o at_ s) :=
  .withValue (s.effectiveAddress_noInterrupt at_ o) fun _ => .withValue (s.readWord_noInterrupt _) fun _ => .next _

theorem performXio_noInterrupt (f : XioFunction) (bit8 k : Bool) (ed : BitVec 6) (at_ : Site) :
    NoInterrupt (performXio f bit8 k ed at_ s) := by
  cases f with
  | output src => exact .withValue (s.sourceWord_noInterrupt src) fun _ => skipIf_noInterrupt _ _ at_
  | outputBit => exact skipIf_noInterrupt _ _ at_
  | control => exact skipIf_noInterrupt _ _ at_
  | input dst => exact .withValue (s.destLocation_noInterrupt at_ dst) fun _ => skipIf_noInterrupt _ _ at_

end

/-- No instruction but XEC and SMM answers the refusal of an interrupt request. -/
theorem performOne_noInterrupt (i : Instr) (at_ : Site) (s : State) : NoInterrupt (performOne i at_ s) := by
  cases i
  case lda | lde | ldx1 | ldx2 | ldx4 | add | sub | mpy | lor | and | xor =>
    exact .withValue (s.operandOf_noInterrupt at_ _) fun _ => advance_noInterrupt _ at_
  case dla | dad => exact .withValue (s.doubleOperandOf_noInterrupt at_ _) fun _ => advance_noInterrupt _ at_
  case mov | cmp | mao | neg | nop | rsa | rla | lla | csa | rsd | rld | lld | csd => exact advance_noInterrupt _ at_
  case lsa | lsd => exact .ite (advance_noInterrupt _ at_) nofun
  case sta | ste | stx1 | stx2 | stx4 | stz => exact storeWord_noInterrupt s _ _ at_
  case dst => exact performDst_noInterrupt s _ at_
  case dvd => exact performDvd_noInterrupt s _ at_
  case axd1 | axd2 | axd4 => exact .next _
  case jmp | jci => exact .withValue (s.effectiveAddress_noInterrupt at_ _) fun _ => .next _
  case jlz | jez | jgz => exact jumpIf_noInterrupt s _ _ at_
  case rtj => exact performRtj_noInterrupt s _ at_
  case jtb => exact performJtb_noInterrupt s _ at_
  case kal | kaq | kah => exact .withValue (s.operandOf_noInterrupt at_ _) fun _ => skipIf_noInterrupt s _ at_
  case imt | amt0 | amt2 | amt3 | amt4 | amt5 | amt6 | amt7 => exact addToMemory_noInterrupt s _ _ at_
  case xio => exact performXio_noInterrupt s _ _ _ _ at_
  case internalTest => exact .withValue (s.sourceWord_noInterrupt _) fun _ => skipIf_noInterrupt _ _ at_
  case internalSet => exact .withValue (s.sourceWord_noInterrupt _) fun _ => advance_noInterrupt _ at_
  case internalInput => exact .withValue (s.destLocation_noInterrupt at_ _) fun _ => advance_noInterrupt _ at_
  case cls | cld | prs | prd | trn | nrm | tal | sst | lst | pin | xec | smm => nofun

/-- Nor does what XEC or SMM performs. -/
theorem runRemote_noInterrupt (m : Addr) (at_ : Site) (s : State) : NoInterrupt (runRemote m at_ s) :=
  .withValue (s.fetchRemote_noInterrupt m) fun i => .ite (by simpa using performOne_noInterrupt i at_ s) nofun

theorem exec_noInterrupt (i : Instr) (s : State) : NoInterrupt (exec i s) := by
  cases hi : performsRemote i with
  | false =>
    rw [exec_eq_performOne s hi]
    exact performOne_noInterrupt i _ s
  | true =>
    cases i
    case xec o => exact .withValue (s.effectiveAddress_noInterrupt _ o) fun m => runRemote_noInterrupt m _ s
    case smm w2 =>
      exact .withValue (smmLocation_noInterrupt w2) fun m => .withValue (s.readWord_noInterrupt m) fun iw =>
        .withValue (addressIn_noInterrupt iw) fun m => runRemote_noInterrupt m _ s.setMonitorMaster
    all_goals cases hi

theorem NoInterrupt.ticked {r : Answer} (h : NoInterrupt r) : NoInterrupt (ticked r) := by
  cases r with
  | next s => nofun
  | fault f => nofun
  | refused x => exact h

/-- The step refuses an interrupt request where one arrives, and there only. -/
theorem step_eq_interruptRefused {s : State} :
    step s = .refused .interruptEntryNotInSource ↔ s.interruptArrives = true := by
  unfold step
  split
  · next h => simp [h]
  · next h =>
    have hrest : NoInterrupt (withValue (s.fetch parameters) fun i => ticked (exec i s)) :=
      .withValue s.fetch_noInterrupt fun i => (exec_noInterrupt i s).ticked
    exact ⟨fun he => absurd he hrest, fun ha => absurd ha h⟩

theorem State.interruptArrives_iff {s : State} :
    s.interruptArrives = true ↔
      (s.spio = true ∧ Config.interruptRequest s.draws .scannedProgrammed = true) ∨
        (s.epi = true ∧ Config.interruptRequest s.draws .externalPriority = true) := by
  simp [State.interruptArrives]

/-- Settles O56: the step looks at the requests first, and neither the fetch nor an instruction answers their refusal. -/
theorem interruptsAreRefusedOnlyWhereAllowed : Obligations.InterruptsAreRefusedOnlyWhereAllowed := by
  have refused (s : State) := (step_eq_interruptRefused (s := s)).trans State.interruptArrives_iff
  exact ⟨refused, fun s hspio hepi h => by simpa [hspio, hepi] using (refused s).1 h⟩

end Sys2Proof.Machine
end
